-- ==== Sys2Proof/Word.lean ====
section
/-! DEFINITION. The widths of the block's quantities (00_scope.md R5; 30_encoding.md R50, R54, R58). -/

namespace Sys2Proof

/-- A half-byte, 0 to 15 (30_encoding.md R50). -/
abbrev Nybble := BitVec 4

/-- A cell of a buffer, an operand of the host port, or `dout` (00_scope.md R5, `W_CELL`, `W_IN`). -/
abbrev Byte := BitVec 8

/-- The decode word of the stream table, run_pending in bit 8 and the operand in bits 7 to 0
(30_encoding.md R54: "a device of the table only; it is not a port or a register"). -/
abbrev DecodeWord := BitVec 9

/-- The command word of the host port, op in bits 10 to 8 and din in bits 7 to 0 (30_encoding.md R58).
The status word STAT has the same width (10_state.md R16). -/
abbrev CommandWord := BitVec 11

end Sys2Proof
end

