-- ==== Sys2Proof/Config.lean ====
section
/-! DEFINITION. What the spec leaves to an implementation: the open parameter `P_ESC_IN_RUN` and the free values
that stand for the spec's draws. None has a body, so nothing can be proved of a value of it. -/

namespace Sys2Proof

/-- The two values of the parameter `P_ESC_IN_RUN` (00_scope.md R5; 40_decoder_symbols.md R74). -/
inductive EscInRun where
  /-- Nybble 15 as a run length is a run of 18 zeros. -/
  | run18
  /-- Nybble 15 as a run length is corrupt input. -/
  | error
  deriving DecidableEq, Repr, Inhabited

/-- `P_ESC_IN_RUN`: what nybble 15 does while run_pending is 1. OPEN in the spec (92_eei_decisions.md D9);
constant over a run (10_state.md R20). Every claim holds for both values. Log 4. -/
opaque Config.escInRun : EscInRun

/-- The unspecified byte a read returns at its n-th draw (93_implementation_defined.md U3, U4): a draw on every
read, two reads need not agree. Log 5. -/
opaque Config.freeByte : Nat → Byte

/-- What the grayscale table would give for a code above 14. The table "has no entry for 15 and none is ever
needed" (41_image_assembly.md R94): only states no run reaches ask for it. Log 12. DESIGN CHOICE. -/
opaque Config.grayBeyond : Byte → Byte

end Sys2Proof
end

