-- ==== Sys2Proof/Machine/Constants.lean ====
section
/-! DEFINITION. The numbers the source fixes (00_scope.md R4), the grid's active ranges (41_image_assembly.md R91)
and the grayscale table (41_image_assembly.md R94). -/

namespace Sys2Proof.Machine

open Sys2Proof

/-- `N_LIN`: cells of the linear buffer, the cursor's bound. -/
abbrev nLin : Nat := 181

/-- `N_ROWS`: rows of the grid. -/
abbrev nRows : Nat := 13

/-- `N_COLS`: columns of the grid. -/
abbrev nCols : Nat := 15

/-- `N_GRID`: cells of the grid image. -/
abbrev nGrid : Nat := 195

/-- `CODE_MAX`: the largest raw pixel code. -/
abbrev codeMax : Nat := 14

/-- `RUN_BIAS`: a run-length nybble x stands for x + 3 zeros. -/
abbrev runBias : Nat := 3

/-- `NYB_LIMIT`: an operand this large or larger is invalid. -/
abbrev nybLimit : Nat := 16

/-- `ROW_LO`: the first active column of a row (41_image_assembly.md R91). -/
def rowLo : Nat → Nat
  | 0 => 3
  | 1 => 2
  | 2 => 1
  | 3 => 1
  | _ => 0

/-- `ROW_HI`: the last active column of a row (41_image_assembly.md R91). -/
def rowHi : Nat → Nat
  | 0 => 11
  | 1 => 12
  | 2 => 13
  | 3 => 13
  | _ => 14

/-- `LUT`: the grayscale table of 41_image_assembly.md R94, for codes 0 to 14; above, a free value (log 12). -/
def grayscale (code : Byte) : Byte :=
  match code.toNat with
  | 0 => 0
  | 1 => 18
  | 2 => 36
  | 3 => 55
  | 4 => 73
  | 5 => 91
  | 6 => 109
  | 7 => 128
  | 8 => 146
  | 9 => 164
  | 10 => 182
  | 11 => 200
  | 12 => 219
  | 13 => 237
  | 14 => 255
  | _ => Config.grayBeyond code

end Sys2Proof.Machine
end

