-- ==== Sys2Proof/Syntax.lean ====
section
/-! DEFINITION. The instructions: one constructor for each row of spec/opcode_table.json. The stream symbols
(30_encoding.md R51), the host commands (30_encoding.md R58) and the internal operation ASSEMBLE. -/

namespace Sys2Proof

/-- One constructor per row of the opcode table, in the table's order. -/
inductive Instr where
  /-- Stream: nybble 15 while no run is pending (R72). -/
  | esc
  /-- Stream: nybble 15 while a run length is awaited (R74). -/
  | run15
  /-- Stream: a raw pixel code, 0 to 14 (R71). -/
  | lit (v : Nybble)
  /-- Stream: a run-length nybble, 0 to 14, for x + 3 zeros (R73). -/
  | run (x : Nybble)
  /-- Stream: an operand of 16 or more, in either mode; `pending` is bit 8 of the decode word (R75). -/
  | invalid (pending : Bool) (v : Byte)
  /-- Host: feed one nybble operand (R102). -/
  | nyb (v : Byte)
  /-- Host: feed the low then the high nybble of a byte (R103). -/
  | byte (b : Byte)
  /-- Host: reset; the operand is ignored (R101). -/
  | rst (din : Byte)
  /-- Host: read a cell of the grid image (R104). -/
  | rdpix (g : Byte)
  /-- Host: read a cell of the linear buffer (R105). -/
  | rdlin (i : Byte)
  /-- Host: reserved op 5 (R107). -/
  | reserved5 (din : Byte)
  /-- Host: reserved op 6 (R107). -/
  | reserved6 (din : Byte)
  /-- Host: reserved op 7 (R107). -/
  | reserved7 (din : Byte)
  /-- Internal: build the grid image; it has no encoding (R95). -/
  | assemble
  deriving DecidableEq, Repr

end Sys2Proof
end

