-- ==== Sys2Proof/Machine/State.lean ====
section
/-! DEFINITION. The machine's state (10_state.md R10), the host's port, the reasons a step can stop, and the state
after reset (10_state.md R21). -/

namespace Sys2Proof.Machine

open Sys2Proof

/-- The result register's four values (10_state.md R13); the codes are in `Machine/Flags.lean`. -/
inductive Status where
  /-- Reset, no nybble processed since. -/
  | begin
  /-- At least one nybble processed, image not complete, no error. -/
  | inProgress
  /-- The cursor is 181 and the grid holds the image; terminal. -/
  | complete
  /-- The last processed nybble was malformed; terminal. -/
  | error
  deriving DecidableEq, Repr

/-- One operation the host issues (42_host_operations.md R100; 70_reset_and_hazards.md R140). -/
inductive HostOp where
  /-- A command word of the host port (30_encoding.md R58). -/
  | command (w : CommandWord)
  /-- The reset input `rst` (70_reset_and_hazards.md R140). -/
  | rstInput
  deriving DecidableEq, Repr

/-- Why the machine stops with a fault. -/
inductive Fault where
  /-- Raised by LIT when the cursor is above 180 and the status is not terminal: the write would fall outside
  the linear buffer, which 20_memory.md R37 says never happens. Safe: the model stops, and only in states no run
  reaches (10_state.md R19 item 7). Log 10. -/
  | linearIndexOutside
  deriving DecidableEq, Repr

/-- Why an instruction is refused. -/
inductive Refusal where
  /-- Raised by an arm of exec whose instruction has no meaning in the model yet. Safe: the model stops. -/
  | notModelled (mnemonic : String)
  /-- Raised by the reserved operations 5, 6 and 7: 42_host_operations.md R107, "A model should refuse them".
  Safe: the model stops. Log 9. -/
  | reservedOperation
  /-- Raised by a stream symbol asked for in a state in which the decode table of 30_encoding.md R54 does not read
  it (LIT or ESC with a run pending, RUN or RUN15 with none, an operand outside its row). Safe: the model stops,
  and no operation of the host ever asks for it. Log 11. -/
  | symbolNotDecoded
  deriving DecidableEq, Repr

/-- The block's state (10_state.md R10), the port's output, and the model's own two fields. -/
structure State where
  /-- Next write position in the linear buffer, 0 to 181 (10_state.md R11). -/
  cursor : Byte
  /-- The previous nybble was an escape and its run length is awaited (10_state.md R12). -/
  runPending : Bool
  /-- The result of the most recent symbol (10_state.md R13). -/
  status : Status
  /-- The cells of the linear buffer that are not 0, by rising index (10_state.md R17). -/
  linearBuffer : List Host.Cell
  /-- The cells of the grid image that have a value, by rising index; an unlisted cell is unspecified
  (10_state.md R18). -/
  gridImage : List Host.Cell
  /-- The byte the last operation returned, if it returned one (30_encoding.md R58, column dout). -/
  dout : Option Byte
  /-- The model's own: the operations the host has yet to issue, in issue order (20_memory.md R40). Log 1. -/
  hostOps : List HostOp
  /-- The model's own: how many unspecified bytes have been drawn. Log 5. -/
  draws : Nat
  deriving DecidableEq, Repr

/-! ### Named updates, one per field -/

/-- The state with another cursor. -/
def State.setCursor (s : State) (c : Byte) : State := { s with cursor := c }

/-- The state with another run_pending. -/
def State.setRunPending (s : State) (p : Bool) : State := { s with runPending := p }

/-- The state with another status. -/
def State.setStatus (s : State) (st : Status) : State := { s with status := st }

/-- The state with another linear buffer. -/
def State.setLinear (s : State) (m : List Host.Cell) : State := { s with linearBuffer := m }

/-- The state with another grid image. -/
def State.setGrid (s : State) (m : List Host.Cell) : State := { s with gridImage := m }

/-- The state with another output byte. -/
def State.setDout (s : State) (d : Option Byte) : State := { s with dout := d }

/-- The state with another list of operations to come. -/
def State.setHostOps (s : State) (ops : List HostOp) : State := { s with hostOps := ops }

/-- The state with another draw count. -/
def State.setDraws (s : State) (n : Nat) : State := { s with draws := n }

/-- The machine right after reset (10_state.md R21): BEGIN, cursor 0, nothing pending, every linear cell 0, every
grid cell unspecified. The output, the operations to come and the draw count are the model's (logs 13, 1, 5). -/
def State.reset : State where
  cursor := 0
  runPending := false
  status := .begin
  linearBuffer := []
  gridImage := []
  dout := none
  hostOps := []
  draws := 0

end Sys2Proof.Machine
end

