-- ==== Sys2Proof/Machine/Memory.lean ====
section
/-! DEFINITION. The two index spaces (20_memory.md R30) as lists of cells in one canonical form, and the operations
that read and write one cell. -/

namespace Sys2Proof.Machine

open Sys2Proof

/-- The cells stand in strictly rising order of index, so no index stands twice. -/
abbrev cellsRising (m : List Host.Cell) : Prop := m.Pairwise fun a b => a.1 < b.1

/-- The first listed value at an index. -/
def lookupCell : List Host.Cell → Nat → Option Byte
  | [], _ => none
  | c :: rest, i => if c.1 = i then some c.2 else lookupCell rest i

/-- The list with a value listed at an index, in its place. -/
def insertCell : List Host.Cell → Nat → Byte → List Host.Cell
  | [], i, v => [(i, v)]
  | c :: rest, i, v =>
    if i < c.1 then (i, v) :: c :: rest
    else if i = c.1 then (i, v) :: rest
    else c :: insertCell rest i v

/-- The list with no cell at an index. -/
def eraseCell (m : List Host.Cell) (i : Nat) : List Host.Cell := m.filter fun c => c.1 ≠ i

/-! ### The linear buffer -/

/-- What an unlisted cell of the linear buffer reads as: its reset contents (10_state.md R21). -/
def linearUnlisted : Byte := 0

/-- The canonical form of the linear buffer: rising, inside the space, nothing listed that reads so unlisted. -/
abbrev linearWf (m : List Host.Cell) : Prop :=
  cellsRising m ∧ ∀ c ∈ m, c.1 < nLin ∧ c.2 ≠ linearUnlisted

/-- `MemRead(LB, i)` (00_scope.md R6). -/
def readLinear (m : List Host.Cell) (i : Nat) : Byte := (lookupCell m i).getD linearUnlisted

/-- `MemWrite(LB, i, v)` (00_scope.md R6), keeping the canonical form. -/
def writeLinear (m : List Host.Cell) (i : Nat) (v : Byte) : List Host.Cell :=
  if v = linearUnlisted then eraseCell m i else insertCell m i v

/-- `for k in 0 .. n-1: LB[i + k] <- 0` (40_decoder_symbols.md R73). -/
def writeZeros (m : List Host.Cell) (i : Nat) : Nat → List Host.Cell
  | 0 => m
  | n + 1 => writeZeros (writeLinear m i 0) (i + 1) n

/-! ### The grid image -/

/-- The canonical form of the grid image: rising and inside the space. -/
abbrev gridWf (m : List Host.Cell) : Prop := cellsRising m ∧ ∀ c ∈ m, c.1 < nGrid

/-- `GI[g]`, none where the cell is unspecified (10_state.md R18). -/
def readGrid (m : List Host.Cell) (g : Nat) : Option Byte := lookupCell m g

end Sys2Proof.Machine
end

