-- ==== Sys2Proof/Machine/Assembler.lean ====
section
/-! DEFINITION. ASSEMBLE, the pixel grid remapper and grayscale scaler (41_image_assembly.md). -/

namespace Sys2Proof.Machine

open Sys2Proof

/-- The cell at a row and column receives a decoded value (41_image_assembly.md R91). -/
def activeCell (row col : Nat) : Bool := rowLo row ≤ col && col ≤ rowHi row

/-- `ROW_BASE`: the active cells in all earlier rows (41_image_assembly.md R92). -/
def rowBase : Nat → Nat
  | 0 => 0
  | row + 1 => rowBase row + (rowHi row + 1 - rowLo row)

/-- The linear index of an active cell, `ROW_BASE[row] + (col - ROW_LO[row])` (41_image_assembly.md R92). -/
def linearIndex (row col : Nat) : Nat := rowBase row + (col - rowLo row)

/-- The grid index of a row and column (20_memory.md R34). -/
def gridIndex (row col : Nat) : Nat := nCols * row + col

/-- The value ASSEMBLE gives the cell at a row and column (41_image_assembly.md R95). -/
def pixelAt (linear : List Host.Cell) (row col : Nat) : Byte :=
  if activeCell row col then grayscale (readLinear linear (linearIndex row col)) else 0

/-- All 195 cells ASSEMBLE writes, by rising grid index: row is g div 15 and col the rest (20_memory.md R34). -/
def assembleGrid (linear : List Host.Cell) : List Host.Cell :=
  (List.range nGrid).map fun g => (g, pixelAt linear (g / nCols) (g % nCols))

/-- `ASSEMBLE()`: the grid image is written and nothing else changes (41_image_assembly.md R95, R97). -/
def assembleState (s : State) : State := s.setGrid (assembleGrid s.linearBuffer)

/-- The loop of 41_image_assembly.md R95 over the columns of one row, with its running index `k`; the cells come
out in the order they are written. -/
def assembleRowLoop (linear : List Host.Cell) (row : Nat) : List Nat → Nat → List Host.Cell × Nat
  | [], k => ([], k)
  | col :: cols, k =>
    if rowLo row ≤ col ∧ col ≤ rowHi row then
      let rest := assembleRowLoop linear row cols (k + 1)
      ((nCols * row + col, grayscale (readLinear linear k)) :: rest.1, rest.2)
    else
      let rest := assembleRowLoop linear row cols k
      ((nCols * row + col, 0) :: rest.1, rest.2)

/-- The loop of 41_image_assembly.md R95 over the rows, with its running index `k`. -/
def assembleLoop (linear : List Host.Cell) : List Nat → Nat → List Host.Cell × Nat
  | [], k => ([], k)
  | row :: rows, k =>
    let cells := assembleRowLoop linear row (List.range nCols) k
    let rest := assembleLoop linear rows cells.2
    (cells.1 ++ rest.1, rest.2)

/-- The meaning of ASSEMBLE as an operation of its own: it cannot fail (41_image_assembly.md R95, "Errors: none").
No host operation asks for it; the completion check runs it (40_decoder_symbols.md R76). Log 19. -/
def execAssemble (s : State) : Host.Outcome State Fault Refusal := .next (assembleState s)

end Sys2Proof.Machine
end

