-- ==== Sys2Proof/Machine/Flags.lean ====
section
/-! DEFINITION. What is read from the status register: the codes, the terminal statuses, the status word STAT and
the two level outputs (10_state.md R13, R16; 60_exceptions.md R125). The block has no arithmetic flags (R15). -/

namespace Sys2Proof.Machine

open Sys2Proof

/-- The code of a status (10_state.md R13). -/
def Status.code : Status → BitVec 2
  | .begin => 0
  | .inProgress => 1
  | .complete => 2
  | .error => 3

/-- COMPLETE or ERROR: a reset is needed before the next nybble is processed (10_state.md R13). -/
def Status.terminal : Status → Bool
  | .begin => false
  | .inProgress => false
  | .complete => true
  | .error => true

/-- `STAT = {status[1:0], run_pending, cursor[7:0]}` (10_state.md R16). -/
def State.stat (s : State) : BitVec 11 := s.status.code ++ BitVec.ofBool s.runPending ++ s.cursor

/-- The output `complete` (60_exceptions.md R125). -/
def State.completeOutput (s : State) : Bool := s.status = .complete

/-- The output `error` (60_exceptions.md R125). -/
def State.errorOutput (s : State) : Bool := s.status = .error

end Sys2Proof.Machine
end

