-- ==== Sys2Proof/WellFormed.lean ====
section
/-! DEFINITION. Which instruction terms the tables can spell: the operand ranges of 30_encoding.md R54. -/

namespace Sys2Proof

/-- The operand is one the decode table gives this row. LIT and RUN take 0 to 14, since 15 is ESC or RUN15;
INVALID takes 16 to 255; every other row takes any operand of its width. -/
def Instr.wf : Instr → Bool
  | .lit v => v.toNat ≤ 14
  | .run x => x.toNat ≤ 14
  | .invalid _ v => 16 ≤ v.toNat
  | .esc | .run15 | .nyb _ | .byte _ | .rst _ | .rdpix _ | .rdlin _ => true
  | .reserved5 _ | .reserved6 _ | .reserved7 _ | .assemble => true

end Sys2Proof
end

