-- ==== Sys2Proof/Decode.lean ====
section
/-! DEFINITION. The decoder of the two encodings (30_encoding.md R54, R58), the encoder written from the same
tables, the opcode table's rows as data, the numbering of the table's words, and the reference encoder of the
nybble stream (30_encoding.md R61). -/

namespace Sys2Proof

/-! ### Decoding -/

/-- A word of one of the two encodings: they are separate spaces, so the same number may stand in both. -/
inductive InstrWord where
  /-- The 9-bit decode word of the stream table. -/
  | symbol (w : DecodeWord)
  /-- The 11-bit command word of the host port. -/
  | command (w : CommandWord)
  deriving DecidableEq, Repr

/-- Why a number is not a word of an encoding. -/
inductive DecodeError where
  /-- The number does not fit the 9 bits of a decode word. -/
  | symbolTooWide
  /-- The number does not fit the 11 bits of a command word. -/
  | commandTooWide
  deriving DecidableEq, Repr

/-- The decode word of an operand met with a given run_pending: `{run_pending, v[7:0]}` (30_encoding.md R54). -/
def symbolWord (pending : Bool) (v : Byte) : DecodeWord := BitVec.ofBool pending ++ v

/-- The stream's decode table, total on 9-bit words (30_encoding.md R54, rows top to bottom). -/
def decodeSymbol (w : DecodeWord) : Instr :=
  let pending := w.getLsbD 8
  let v : Byte := w.setWidth 8
  if 16 ≤ v.toNat then .invalid pending v
  else if pending then
    if v.toNat = 15 then .run15 else .run (v.setWidth 4)
  else
    if v.toNat = 15 then .esc else .lit (v.setWidth 4)

/-- The host port's command table, total on 11-bit words (30_encoding.md R58). -/
def decodeCommand (w : CommandWord) : Instr :=
  let din : Byte := w.setWidth 8
  match w.toNat / 256 with
  | 0 => .nyb din
  | 1 => .byte din
  | 2 => .rst din
  | 3 => .rdpix din
  | 4 => .rdlin din
  | 5 => .reserved5 din
  | 6 => .reserved6 din
  | _ => .reserved7 din

/-- The instruction a word of either encoding stands for. -/
def decode : InstrWord → Instr
  | .symbol w => decodeSymbol w
  | .command w => decodeCommand w

/-- The decode word a number spells, or the reason it spells none. -/
def symbolOfNat (n : Nat) : Except DecodeError InstrWord :=
  if n < 512 then .ok (.symbol (BitVec.ofNat 9 n)) else .error .symbolTooWide

/-- The command word a number spells, or the reason it spells none. -/
def commandOfNat (n : Nat) : Except DecodeError InstrWord :=
  if n < 2048 then .ok (.command (BitVec.ofNat 11 n)) else .error .commandTooWide

/-! ### Encoding -/

/-- A command word from its op field and its operand: `{op[2:0], din[7:0]}` (30_encoding.md R58). -/
def commandWord (op : BitVec 3) (din : Byte) : CommandWord := op ++ din

/-- The word of an instruction, from the match columns of the tables (30_encoding.md R54, R58). ASSEMBLE has no
encoding (41_image_assembly.md R90: "It cannot be requested by the host and takes no operand"). -/
def encode : Instr → Option InstrWord
  | .esc => some (.symbol (symbolWord false 15))
  | .run15 => some (.symbol (symbolWord true 15))
  | .lit v => some (.symbol (symbolWord false (v.setWidth 8)))
  | .run x => some (.symbol (symbolWord true (x.setWidth 8)))
  | .invalid pending v => some (.symbol (symbolWord pending v))
  | .nyb v => some (.command (commandWord 0 v))
  | .byte b => some (.command (commandWord 1 b))
  | .rst din => some (.command (commandWord 2 din))
  | .rdpix g => some (.command (commandWord 3 g))
  | .rdlin i => some (.command (commandWord 4 i))
  | .reserved5 din => some (.command (commandWord 5 din))
  | .reserved6 din => some (.command (commandWord 6 din))
  | .reserved7 din => some (.command (commandWord 7 din))
  | .assemble => none

/-! ### The opcode table's rows -/

/-- One row of a match-and-mask table, with the instruction its words stand for. -/
structure OpcodeRow where
  /-- The bits a word must have where the mask is 1. -/
  pattern : Nat
  /-- The bits that are compared. -/
  mask : Nat
  deriving DecidableEq, Repr

/-- The word meets the row. -/
def OpcodeRow.hits (r : OpcodeRow) (n : Nat) : Bool := n &&& r.mask == r.pattern

/-- The stream rows in priority order, first match wins (30_encoding.md R54): ESC, RUN15, LIT, RUN, INVALID. -/
def symbolRows : List OpcodeRow :=
  [⟨0x00F, 0x1FF⟩, ⟨0x10F, 0x1FF⟩, ⟨0x000, 0x1F0⟩, ⟨0x100, 0x1F0⟩, ⟨0x000, 0x000⟩]

/-- The command rows (30_encoding.md R58): NYB, BYTE, RST, RDPIX, RDLIN and the three reserved codes. -/
def commandRows : List OpcodeRow :=
  [⟨0x000, 0x700⟩, ⟨0x100, 0x700⟩, ⟨0x200, 0x700⟩, ⟨0x300, 0x700⟩, ⟨0x400, 0x700⟩, ⟨0x500, 0x700⟩,
    ⟨0x600, 0x700⟩, ⟨0x700, 0x700⟩]

/-- The first row of its own table that a word meets. -/
def firstRow : InstrWord → Nat
  | .symbol w => symbolRows.findIdx fun r => r.hits w.toNat
  | .command w => commandRows.findIdx fun r => r.hits w.toNat

/-- The place of an instruction's row in its table; ASSEMBLE stands in neither. -/
def Instr.rowIndex : Instr → Option Nat
  | .esc => some 0
  | .run15 => some 1
  | .lit _ => some 2
  | .run _ => some 3
  | .invalid _ _ => some 4
  | .nyb _ => some 0
  | .byte _ => some 1
  | .rst _ => some 2
  | .rdpix _ => some 3
  | .rdlin _ => some 4
  | .reserved5 _ => some 5
  | .reserved6 _ => some 6
  | .reserved7 _ => some 7
  | .assemble => none

/-! ### Words numbered as spec/opcode_table.json numbers them -/

/-- Whether a table word of `nbits` bits is read in the stream's space. The two spaces overlap as numbers and
differ only in width, 9 against 11 bits; at a width rounded up to 16, which both share, a number below 0x200 is
read in the stream's space, whose rows stand first in the table. DESIGN CHOICE, log 14. -/
def isSymbolNumber (nbits w : Nat) : Bool := nbits ≤ 9 || (11 < nbits && w < 512)

/-- The word a table number spells in the space its width selects. -/
def tableWord (nbits w : Nat) : Except DecodeError InstrWord :=
  if isSymbolNumber nbits w then symbolOfNat w else commandOfNat w

/-- The instruction the decoder reads from a table word; none where the number is no word of the encoding. -/
def decodeTableWord (nbits w : Nat) : Option Instr :=
  match tableWord nbits w with
  | .ok word => some (decode word)
  | .error _ => none

/-! ### The reference encoder of the nybble stream -/

/-- How many zeros a list of codes starts with (30_encoding.md R61, `r`). -/
def leadingZeros : List Nybble → Nat
  | [] => 0
  | a :: rest => if a = 0 then leadingZeros rest + 1 else 0

/-- `ENCODE` with a bound on the number of rounds (30_encoding.md R61). -/
def encodeStreamUpTo : Nat → List Nybble → List Nybble
  | 0, _ => []
  | _ + 1, [] => []
  | rounds + 1, a :: rest =>
    let r := leadingZeros (a :: rest)
    if 3 ≤ r then
      let c := min r 17
      15 :: BitVec.ofNat 4 (c - 3) :: encodeStreamUpTo rounds ((a :: rest).drop c)
    else
      a :: encodeStreamUpTo rounds rest

/-- The reference encoder `ENCODE` of 30_encoding.md R61: an escape where a run of at least 3 zeros starts, cut
at 17; a literal nybble elsewhere. Each round takes at least one code, so the length bounds the rounds. -/
def encodeStream (codes : List Nybble) : List Nybble := encodeStreamUpTo codes.length codes

end Sys2Proof
end

