-- ==== Sys2Proof/Machine/Operands.lean ====
section
/-! DEFINITION. Operand assembly (30_encoding.md R52; 20_memory.md R32): the halves of a byte, a literal's cell, a
run's length. -/

namespace Sys2Proof.Machine

open Sys2Proof

/-- The first nybble of a byte, `b[3:0]` (20_memory.md R32). -/
def lowNybble (b : Byte) : Nybble := b.extractLsb' 0 4

/-- The second nybble of a byte, `b[7:4]` (20_memory.md R32). -/
def highNybble (b : Byte) : Nybble := b.extractLsb' 4 4

/-- A nybble as the 8-bit operand of NYB, and as the cell a literal writes: `zext_8` (30_encoding.md R52). -/
def zext8 (q : Nybble) : Byte := q.setWidth 8

/-- The operand's value as a nybble, `v[3:0]` (30_encoding.md R52). -/
def lowHalf (v : Byte) : Nybble := v.setWidth 4

/-- `n = x + 3` (30_encoding.md R52; 40_decoder_symbols.md R73). -/
def runLength (x : Nybble) : Nat := x.toNat + runBias

/-- The nybbles a stream of bytes spells: low then high, byte after byte (20_memory.md R32). -/
def nybblesOfBytes (bs : List Byte) : List Nybble := bs.flatMap fun b => [lowNybble b, highNybble b]

end Sys2Proof.Machine
end

