-- ==== Sys2Proof/Machine/Ops.lean ====
section
/-! DEFINITION. The operations the meanings share: reset, raising the ERROR status, the completion check, a run of
zeros, an unspecified byte, the admission of a symbol, and sequencing. -/

namespace Sys2Proof.Machine

open Sys2Proof

/-- One operation and then another, stopping where the first stops (20_memory.md R40). -/
def andThen (o : Host.Outcome State Fault Refusal) (f : State → Host.Outcome State Fault Refusal) :
    Host.Outcome State Fault Refusal :=
  match o with
  | .next s => f s
  | .fault r => .fault r
  | .refused r => .refused r

/-! ### The one exception and the way out of it -/

/-- The causes of the ERROR status (60_exceptions.md R120). The block stores none (60_exceptions.md R124). -/
inductive ErrorCause where
  /-- An operand of 16 or more. -/
  | invalidNybble
  /-- A run that would pass cell 180. -/
  | runOverflow
  /-- Nybble 15 as a run length, where `P_ESC_IN_RUN` is ERROR. -/
  | escapeInRun
  deriving DecidableEq, Repr

/-- `raise Error(cause)` (00_scope.md R6; 60_exceptions.md R127): the status becomes ERROR and nothing else
changes; the cause is not kept. -/
def raiseError (_cause : ErrorCause) (s : State) : State := s.setStatus .error

/-- Reset, by RST or by the `rst` input (10_state.md R21; 42_host_operations.md R101; 70_reset_and_hazards.md R140),
the only way out of COMPLETE and ERROR (10_state.md R22). Every linear cell is 0 and every grid cell unspecified.
The port's output, the host's operations to come and the draw count are no part of the block's state. -/
def resetBlock (s : State) : State :=
  ((((s.setCursor 0).setRunPending false).setStatus .begin).setLinear []).setGrid []

/-! ### Writes and completion -/

/-- `COMPLETION_CHECK()` (40_decoder_symbols.md R76). -/
def completionCheck (s : State) : State :=
  if s.cursor.toNat = nLin then (assembleState s).setStatus .complete else s

/-- The body of RUN for a run of `n` zeros (40_decoder_symbols.md R73): the overflow test comes before any write. -/
def runOfZeros (n : Nat) (s : State) : State :=
  if nLin < s.cursor.toNat + n then raiseError .runOverflow s
  else
    completionCheck
      ((((s.setLinear (writeZeros s.linearBuffer s.cursor.toNat n)).setCursor
        (BitVec.ofNat 8 (s.cursor.toNat + n))).setRunPending false).setStatus .inProgress)

/-- The body of RUN15 under a value of `P_ESC_IN_RUN` (40_decoder_symbols.md R74). -/
def escapeInRun (p : EscInRun) (s : State) : State :=
  match p with
  | .run18 => runOfZeros (15 + runBias) s
  | .error => raiseError .escapeInRun s

/-! ### Reads -/

/-- A read of an unspecified byte: the next free value (93_implementation_defined.md U3, U4; log 5). -/
def drawDout (s : State) : State := (s.setDout (some (Config.freeByte s.draws))).setDraws (s.draws + 1)

/-! ### Admission -/

/-- A symbol's meaning applies to a nybble of the stream: in a terminal status it is discarded
(40_decoder_symbols.md R77, last two rows); where the decode table does not read this symbol it is refused
(log 11); otherwise the symbol's body runs. -/
def admitSymbol (read : Bool) (s : State) (body : State → Host.Outcome State Fault Refusal) :
    Host.Outcome State Fault Refusal :=
  if s.status.terminal then .next s
  else if read then body s
  else .refused .symbolNotDecoded

end Sys2Proof.Machine
end

