-- ==== Sys2Proof/Machine/Symbols.lean ====
section
/-! DEFINITION. The meanings of the stream's symbols (40_decoder_symbols.md R71 to R75) and the decoder step that
chooses among them (R70). -/

namespace Sys2Proof.Machine

open Sys2Proof

/-- ESC (40_decoder_symbols.md R72). -/
def execEsc (s : State) : Host.Outcome State Fault Refusal :=
  admitSymbol (!s.runPending) s fun s => .next ((s.setRunPending true).setStatus .inProgress)

/-- RUN15 (40_decoder_symbols.md R74), under the parameter `P_ESC_IN_RUN`. -/
def execRun15 (s : State) : Host.Outcome State Fault Refusal :=
  admitSymbol s.runPending s fun s => .next (escapeInRun Config.escInRun s)

/-- LIT (40_decoder_symbols.md R71). The write stays inside the linear buffer (20_memory.md R37): a cursor above
180, which no run reaches outside COMPLETE, faults. -/
def execLit (v : Nybble) (s : State) : Host.Outcome State Fault Refusal :=
  admitSymbol (!s.runPending && v.toNat ≤ codeMax) s fun s =>
    if s.cursor.toNat < nLin then
      .next (completionCheck
        (((s.setLinear (writeLinear s.linearBuffer s.cursor.toNat (zext8 v))).setCursor
          (BitVec.ofNat 8 (s.cursor.toNat + 1))).setStatus .inProgress))
    else .fault .linearIndexOutside

/-- RUN (40_decoder_symbols.md R73). -/
def execRun (x : Nybble) (s : State) : Host.Outcome State Fault Refusal :=
  admitSymbol (s.runPending && x.toNat ≤ codeMax) s fun s => .next (runOfZeros (runLength x) s)

/-- INVALID (40_decoder_symbols.md R75): "Precondition: none on `run_pending`". -/
def execInvalid (_pending : Bool) (v : Byte) (s : State) : Host.Outcome State Fault Refusal :=
  admitSymbol (nybLimit ≤ v.toNat) s fun s => .next (raiseError .invalidNybble s)

/-- `DECODE(v)`, the decoder step for one operand (40_decoder_symbols.md R70). -/
def decodeNybble (v : Byte) (s : State) : Host.Outcome State Fault Refusal :=
  if nybLimit ≤ v.toNat then execInvalid s.runPending v s
  else if s.runPending then
    if v.toNat = 15 then execRun15 s else execRun (lowHalf v) s
  else
    if v.toNat = 15 then execEsc s else execLit (lowHalf v) s

end Sys2Proof.Machine
end

