-- ==== Sys2Proof/Machine/Commands.lean ====
section
/-! DEFINITION. The meanings of the host's operations (42_host_operations.md R101 to R107). -/

namespace Sys2Proof.Machine

open Sys2Proof

/-- NYB (42_host_operations.md R102): a nybble in a terminal status is discarded. -/
def execNyb (v : Byte) (s : State) : Host.Outcome State Fault Refusal :=
  if s.status.terminal then .next s else decodeNybble v s

/-- BYTE (42_host_operations.md R103): the low nybble first, then the high nybble. -/
def execByte (b : Byte) (s : State) : Host.Outcome State Fault Refusal :=
  andThen (execNyb (zext8 (lowNybble b)) s) (execNyb (zext8 (highNybble b)))

/-- RST (42_host_operations.md R101): legal in every status, the operand ignored. -/
def execRst (_din : Byte) (s : State) : Host.Outcome State Fault Refusal := .next (resetBlock s)

/-- RDPIX (42_host_operations.md R104): the image while COMPLETE, an unspecified byte otherwise. A cell no
ASSEMBLE has written, which COMPLETE rules out in every run, is unspecified too. -/
def execRdpix (g : Byte) (s : State) : Host.Outcome State Fault Refusal :=
  if s.status = .complete ∧ g.toNat < nGrid then
    match readGrid s.gridImage g.toNat with
    | some v => .next (s.setDout (some v))
    | none => .next (drawDout s)
  else .next (drawDout s)

/-- RDLIN (42_host_operations.md R105): legal in every status. -/
def execRdlin (i : Byte) (s : State) : Host.Outcome State Fault Refusal :=
  if i.toNat < nLin then .next (s.setDout (some (readLinear s.linearBuffer i.toNat)))
  else .next (drawDout s)

/-- Reserved op 5 (42_host_operations.md R107): "A model should refuse them". -/
def execReserved5 (_din : Byte) (_s : State) : Host.Outcome State Fault Refusal := .refused .reservedOperation

/-- Reserved op 6 (42_host_operations.md R107): "A model should refuse them". -/
def execReserved6 (_din : Byte) (_s : State) : Host.Outcome State Fault Refusal := .refused .reservedOperation

/-- Reserved op 7 (42_host_operations.md R107): "A model should refuse them". -/
def execReserved7 (_din : Byte) (_s : State) : Host.Outcome State Fault Refusal := .refused .reservedOperation

end Sys2Proof.Machine
end

