-- ==== Sys2Proof/Machine/Dispatch.lean ====
section
/-! DEFINITION. exec: one arm per instruction, each a direct call of its meaning. -/

namespace Sys2Proof.Machine

open Sys2Proof

def exec (i : Instr) (s : State) : Host.Outcome State Fault Refusal :=
  match i with
  | .esc => Sys2Proof.Machine.execEsc s
  | .run15 => Sys2Proof.Machine.execRun15 s
  | .lit v => Sys2Proof.Machine.execLit v s
  | .run x => Sys2Proof.Machine.execRun x s
  | .invalid pending v => Sys2Proof.Machine.execInvalid pending v s
  | .nyb v => Sys2Proof.Machine.execNyb v s
  | .byte b => Sys2Proof.Machine.execByte b s
  | .rst din => Sys2Proof.Machine.execRst din s
  | .rdpix g => Sys2Proof.Machine.execRdpix g s
  | .rdlin k => Sys2Proof.Machine.execRdlin k s
  | .reserved5 din => Sys2Proof.Machine.execReserved5 din s
  | .reserved6 din => Sys2Proof.Machine.execReserved6 din s
  | .reserved7 din => Sys2Proof.Machine.execReserved7 din s
  | .assemble => Sys2Proof.Machine.execAssemble s

end Sys2Proof.Machine
end

