-- ==== Sys2Proof/Machine/Fetch.lean ====
section
/-! DEFINITION. What the step fetches: the next operation of the host, and how a word is laid where the step fetches
it (logs 1, 3, 14). -/

namespace Sys2Proof.Machine

open Sys2Proof

/-- The instruction an operation of the host stands for. The `rst` input and RST "differ in nothing"
(70_reset_and_hazards.md R140). -/
def HostOp.instr : HostOp → Instr
  | .command w => decodeCommand w
  | .rstInput => .rst 0

/-- The state as the operation begins: the operation is taken, and the port returns nothing yet (log 13). -/
def beginOp (s : State) (rest : List HostOp) : State := (s.setHostOps rest).setDout none

/-- The state with one more operation to be issued first. -/
def issueFirst (s : State) (op : HostOp) : State := s.setHostOps (op :: s.hostOps)

/-- The state in which the next step decodes this word. A command word is issued as it is. A decode word of the
stream is its operand issued by NYB, met with the run_pending its bit 8 names (30_encoding.md R54). -/
def placeWord (s : State) : InstrWord → State
  | .command w => issueFirst s (.command w)
  | .symbol w => issueFirst (s.setRunPending (w.getLsbD 8)) (.command (commandWord 0 (w.setWidth 8)))

end Sys2Proof.Machine
end

