-- ==== Sys2Proof/Machine/Step.lean ====
section
/-! DEFINITION. One step: the block takes the host's next operation and runs it whole (20_memory.md R38, R40). -/

namespace Sys2Proof.Machine

open Sys2Proof

/-- One step of the block. With no operation issued it does nothing (42_host_operations.md R100: "the block does
nothing between operations"). -/
def step (s : State) : Host.Outcome State Fault Refusal :=
  match s.hostOps with
  | [] => .next s
  | op :: rest => exec op.instr (beginOp s rest)

/-- The state with the instruction of a table word placed where the step fetches its next instruction. A number
that is no word of the encoding leaves the state as it is. -/
def State.withFetchWord (s : State) (nbits w : Nat) : State :=
  match tableWord nbits w with
  | .ok word => placeWord s word
  | .error _ => s

end Sys2Proof.Machine
end

