-- ==== Sys2Proof/Machine/Stream.lean ====
section
/-! DEFINITION. Feeding a whole stream to the block, operation by operation, and the stream notation of
30_encoding.md R60. These are what claims about streams are stated in; the step uses none of them. -/

namespace Sys2Proof.Machine

open Sys2Proof

/-- NYB on each nybble in order, stopping where one stops (20_memory.md R40). -/
def feedNybbles : List Nybble → State → Host.Outcome State Fault Refusal
  | [], s => .next s
  | q :: qs, s => andThen (exec (.nyb (zext8 q)) s) (feedNybbles qs)

/-- BYTE on each byte in order, stopping where one stops (20_memory.md R40). -/
def feedBytes : List Byte → State → Host.Outcome State Fault Refusal
  | [], s => .next s
  | b :: bs, s => andThen (exec (.byte b) s) (feedBytes bs)

/-- One written symbol of a legal stream: `L v` or `Z n` (30_encoding.md R60). -/
inductive Spelling where
  /-- `L v`: the nybble v. -/
  | literal (v : Nybble)
  /-- `Z n`: the nybbles F and n - 3. -/
  | zeros (n : Nat)
  deriving DecidableEq, Repr

/-- The condition column of 30_encoding.md R60, with the run lengths legal under both values of `P_ESC_IN_RUN`. -/
def Spelling.legal : Spelling → Bool
  | .literal v => v.toNat ≤ codeMax
  | .zeros n => 3 ≤ n && n ≤ 17

/-- The nybbles a symbol is spelled with (30_encoding.md R60). -/
def Spelling.nybbles : Spelling → List Nybble
  | .literal v => [v]
  | .zeros n => [15, BitVec.ofNat 4 (n - 3)]

/-- The codes a symbol stands for (30_encoding.md R52). -/
def Spelling.codes : Spelling → List Nybble
  | .literal v => [v]
  | .zeros n => List.replicate n 0

end Sys2Proof.Machine
end

