-- ==== Sys2Proof/Safety.lean ====
section
/-! DEFINITION. The terms claims are stated in: the invariants of 10_state.md R19, what a write of cells leaves, the
spec's tables as it prints them, and when two states agree on everything an image depends on. -/

namespace Sys2Proof.Machine

open Sys2Proof

/-! ### Invariants -/

/-- The invariants of 10_state.md R19 that one state shows, and the canonical form of the two buffers. -/
structure State.Inv (s : State) : Prop where
  /-- R19 item 1. -/
  cursor_le : s.cursor.toNat ≤ 181
  /-- The linear buffer is in canonical form. -/
  linear_wf : linearWf s.linearBuffer
  /-- R19 item 2. -/
  codes_le : ∀ i, (readLinear s.linearBuffer i).toNat ≤ 14
  /-- R19 item 3. -/
  complete_iff : s.status = .complete ↔ s.cursor.toNat = 181
  /-- R19 item 4. -/
  begin_fresh : s.status = .begin → s.cursor = 0 ∧ s.runPending = false
  /-- R19 item 5, for COMPLETE. -/
  complete_no_run : s.status = .complete → s.runPending = false
  /-- The grid image is in canonical form. -/
  grid_wf : gridWf s.gridImage
  /-- R19 item 6, its first half. -/
  complete_image : s.status = .complete → s.gridImage = assembleGrid s.linearBuffer

/-- Every linear cell at or above the cursor is 0, its reset value (42_host_operations.md R105). -/
def State.TailZero (s : State) : Prop := ∀ i, s.cursor.toNat ≤ i → readLinear s.linearBuffer i = 0

/-- A nybble presented now is decoded (10_state.md R13: neither COMPLETE nor ERROR). -/
abbrev State.Decoding (s : State) : Prop := s.status = .begin ∨ s.status = .inProgress

/-- The operation is a reset: RST, or the `rst` input (70_reset_and_hazards.md R140). -/
def HostOp.isReset : HostOp → Bool
  | .rstInput => true
  | .command w => w.toNat / 256 = 2

/-! ### What an operation leaves -/

/-- What a successful write of `n` cells of value `v` at the cursor leaves (40_decoder_symbols.md R71, R73, R76):
the cells, the cursor, nothing pending, the status and the image, and nothing else changed. -/
structure CellsWritten (n : Nat) (v : Byte) (s t : State) : Prop where
  /-- The n cells from the cursor hold v; every other cell is as it was. -/
  cells : ∀ i, readLinear t.linearBuffer i =
    if s.cursor.toNat ≤ i ∧ i < s.cursor.toNat + n then v else readLinear s.linearBuffer i
  /-- The cursor has moved past them. -/
  cursor : t.cursor.toNat = s.cursor.toNat + n
  /-- No run length is awaited. -/
  runPending : t.runPending = false
  /-- COMPLETE where the 181st cell is now written, IN_PROGRESS otherwise. -/
  status : t.status = if s.cursor.toNat + n = 181 then .complete else .inProgress
  /-- The image is built at completion only. -/
  image : t.gridImage = if s.cursor.toNat + n = 181 then assembleGrid t.linearBuffer else s.gridImage
  /-- The port's output is unchanged. -/
  dout : t.dout = s.dout
  /-- The operations to come are unchanged. -/
  hostOps : t.hostOps = s.hostOps
  /-- No unspecified byte was drawn. -/
  draws : t.draws = s.draws

/-- What a run of `n` zeros leaves: ERROR and nothing else if it does not fit, the zeros written if it does
(40_decoder_symbols.md R73). -/
def RunOutcome (n : Nat) (s t : State) : Prop :=
  if 181 < s.cursor.toNat + n then t = { s with status := .error } else CellsWritten n 0 s t

/-- What a nybble 15 in the place of a run length leaves, under a value of `P_ESC_IN_RUN`
(40_decoder_symbols.md R74). -/
def EscapeInRunOutcome (p : EscInRun) (s t : State) : Prop :=
  match p with
  | .run18 => RunOutcome 18 s t
  | .error => t = { s with status := .error }

/-- What one admitted operand leaves (40_decoder_symbols.md R70, with the bodies of R71 to R75). -/
def DecodeOutcome (v : Byte) (s t : State) : Prop :=
  if 16 ≤ v.toNat then t = { s with status := .error }
  else if s.runPending = false then
    if v.toNat = 15 then t = { s with runPending := true, status := .inProgress }
    else CellsWritten 1 v s t
  else if v.toNat = 15 then EscapeInRunOutcome Config.escInRun s t
  else RunOutcome (v.toNat + 3) s t

/-- When a nybble 15 in the place of a run length is an error, under a value of `P_ESC_IN_RUN` (60_exceptions.md
R120). -/
def escapeInRunFails (p : EscInRun) (cursor : Nat) : Prop :=
  match p with
  | .run18 => 181 < cursor + 18
  | .error => True

/-! ### The spec's tables as printed -/

/-- The row table of 41_image_assembly.md R91 and R92: `ROW_LO`, `ROW_HI`, `ROW_BASE`, rows 0 to 12. -/
def printedRows : List (Nat × Nat × Nat) :=
  [(3, 11, 0), (2, 12, 9), (1, 13, 20), (1, 13, 33), (0, 14, 46), (0, 14, 61), (0, 14, 76), (0, 14, 91),
    (0, 14, 106), (0, 14, 121), (0, 14, 136), (0, 14, 151), (0, 14, 166)]

/-- The table of 41_image_assembly.md R94, codes 0 to 14. -/
def printedLut : List Byte := [0, 18, 36, 55, 73, 91, 109, 128, 146, 164, 182, 200, 219, 237, 255]

/-- The 14 inactive cells of 41_image_assembly.md R93. -/
def printedInactive : List Nat := [0, 1, 2, 12, 13, 14, 15, 16, 28, 29, 30, 44, 45, 59]

/-- The closed forms from linear index to grid index of 41_image_assembly.md R92. -/
def printedGridIndex (k : Nat) : Nat :=
  if k ≤ 8 then k + 3
  else if k ≤ 19 then k + 8
  else if k ≤ 32 then k + 11
  else if k ≤ 45 then k + 13
  else k + 14

/-- The cell of the completed image at a row and column by the printed tables: the table's value of its code if the
column lies in the row's range, 0 if not (41_image_assembly.md R95). -/
def printedPixel (linear : List Host.Cell) (row col : Nat) : Option Byte :=
  match printedRows[row]? with
  | none => none
  | some (lo, hi, base) =>
    if lo ≤ col ∧ col ≤ hi then printedLut[(readLinear linear (base + (col - lo))).toNat]? else some 0

/-! ### Relations between states -/

/-- The two states differ at most in linear cells at or above the cursor, cells the current image has not written. -/
structure AgreeBelowCursor (s t : State) : Prop where
  /-- The cursors agree. -/
  cursor : s.cursor = t.cursor
  /-- The pending bits agree. -/
  runPending : s.runPending = t.runPending
  /-- The statuses agree. -/
  status : s.status = t.status
  /-- The cells decoded so far agree. -/
  below : ∀ i, i < s.cursor.toNat → readLinear s.linearBuffer i = readLinear t.linearBuffer i
  /-- The images agree. -/
  image : s.gridImage = t.gridImage
  /-- The port's outputs agree. -/
  dout : s.dout = t.dout
  /-- The operations to come agree. -/
  hostOps : s.hostOps = t.hostOps
  /-- The draw counts agree. -/
  draws : s.draws = t.draws

/-- The two outcomes are of one kind, with related next states or the same reason. -/
def OutcomesAgree (rel : State → State → Prop) :
    Host.Outcome State Fault Refusal → Host.Outcome State Fault Refusal → Prop
  | .next s, .next t => rel s t
  | .fault a, .fault b => a = b
  | .refused a, .refused b => a = b
  | _, _ => False

end Sys2Proof.Machine
end

