-- ==== Sys2Proof/Certificates/Slice0/Obligations.lean ====
section
/-! DEFINITION. What is claimed of the model, for the provers. Each statement's docstring names the sentences of the
spec it formalises. Where a clause rests on a decision the spec marks as its own, or on a choice of this model, the
docstring says so. -/

open Sys2Proof Sys2Proof.Machine

/-! ### Encoding -/

/-- Decoding an encoded well-formed instruction gives it back, for every instruction that has an encoding and every
operand its encoding admits (30_encoding.md sections 1, 4 and 7). -/
def Obligations.DecodeOfEncodeIsTheInstruction : Prop :=
  ∀ i : Instr, i.wf = true → i ≠ .assemble → ∃ w, encode i = some w ∧ decode w = i

/-- Every word of either encoding decodes to a well-formed instruction that encodes to it: both decoders are total
and no bit of a word is dropped (30_encoding.md sections 4 and 7). -/
def Obligations.EncodeOfDecodeIsTheWord : Prop :=
  ∀ w : InstrWord, (decode w).wf = true ∧ encode (decode w) = some w

/-- The decoders read the first row a word meets in the match-and-mask tables of 30_encoding.md sections 4 and 7. -/
def Obligations.DecodersReadTheFirstRow : Prop :=
  ∀ w : InstrWord, (decode w).rowIndex = some (firstRow w)

/-- A few words written out bit by bit from the tables of 30_encoding.md, one or more of each table: ESC, RUN15,
LIT 9, RUN 8, INVALID 16 with and without a pending run, NYB 9, BYTE 0xEF, RST, RDPIX 194, RDLIN 180 and the three
reserved codes. -/
def Obligations.SpelledWordsDecode : Prop :=
  decodeSymbol 0b000001111 = .esc ∧ decodeSymbol 0b100001111 = .run15 ∧
  decodeSymbol 0b000001001 = .lit 9 ∧ decodeSymbol 0b100001000 = .run 8 ∧
  decodeSymbol 0b000010000 = .invalid false 16 ∧ decodeSymbol 0b100010000 = .invalid true 16 ∧
  decodeCommand 0b00000001001 = .nyb 9 ∧ decodeCommand 0b00111101111 = .byte 0xEF ∧
  decodeCommand 0b01000000000 = .rst 0 ∧ decodeCommand 0b01111000010 = .rdpix 194 ∧
  decodeCommand 0b10010110100 = .rdlin 180 ∧ decodeCommand 0b10100000001 = .reserved5 1 ∧
  decodeCommand 0b11000000010 = .reserved6 2 ∧ decodeCommand 0b11100000011 = .reserved7 3

/-! ### The step -/

/-- With a command word issued next, the step is exec of the instruction the word decodes to, on the state from which
the operation is taken and in which the port returns nothing yet (20_memory.md section 7; the list of operations is
the model's own, log 1, and the emptied output is log 13). -/
def Obligations.StepRunsTheDecodedInstruction : Prop :=
  ∀ (s : State) (w : CommandWord) (rest : List HostOp), s.hostOps = .command w :: rest →
    step s = exec (decodeCommand w) { s with hostOps := rest, dout := none }

/-- With no operation issued the block does nothing (42_host_operations.md section 1; the list of operations is the
model's own, log 1). -/
def Obligations.StepWithoutAnOperationChangesNothing : Prop :=
  ∀ s : State, s.hostOps = [] → step s = .next s

/-- The `rst` input and the RST operation do the same, whatever RST's operand (70_reset_and_hazards.md section 1, the
spec's decision D7). -/
def Obligations.ResetInputActsAsRst : Prop :=
  ∀ (s : State) (rest : List HostOp) (din : Byte),
    step { s with hostOps := .rstInput :: rest } =
      step { s with hostOps := .command (commandWord 2 din) :: rest }

/-- A decode word of the stream, placed as the next nybble with its bit 8 as run_pending, makes the step run exactly
the symbol the decode table reads from it, in every state (30_encoding.md section 4; placing a word is the model's
own, log 14). -/
def Obligations.PlacedStreamWordRunsItsSymbol : Prop :=
  ∀ (s : State) (w : DecodeWord),
    step (s.withFetchWord 9 w.toNat) =
      exec (decodeSymbol w) { s with runPending := w.getLsbD 8, dout := none }

/-- A command word, placed as the next operation, makes the step run exactly the operation it decodes to
(30_encoding.md section 7; placing a word is the model's own, log 14). -/
def Obligations.PlacedCommandWordRunsItsOperation : Prop :=
  ∀ (s : State) (w : CommandWord),
    step (s.withFetchWord 11 w.toNat) = exec (decodeCommand w) { s with dout := none }

/-! ### The symbols -/

/-- LIT writes its code at the cursor, moves the cursor by one and sets the status, COMPLETE with the image built
where the cursor is then 181, IN_PROGRESS otherwise; nothing else changes (40_decoder_symbols.md R71). -/
def Obligations.LitWritesOneCell : Prop :=
  ∀ (s : State) (v : Nybble), s.Decoding → s.runPending = false → s.cursor.toNat ≤ 180 → v.toNat ≤ 14 →
    ∃ t, exec (.lit v) s = .next t ∧ CellsWritten 1 (v.setWidth 8) s t

/-- ESC sets run_pending and the status IN_PROGRESS and changes nothing else (40_decoder_symbols.md R72). -/
def Obligations.EscArmsARun : Prop :=
  ∀ s : State, s.Decoding → s.runPending = false →
    exec .esc s = .next { s with runPending := true, status := .inProgress }

/-- RUN x writes x + 3 zeros from the cursor, or, where they do not fit, sets ERROR and changes nothing else
(40_decoder_symbols.md section 4; run_pending after the error is the spec's decision D10, the status of a successful
run its derivation D20). -/
def Obligations.RunWritesZerosOrRaisesError : Prop :=
  ∀ (s : State) (x : Nybble), s.Decoding → s.runPending = true → x.toNat ≤ 14 →
    ∃ t, exec (.run x) s = .next t ∧ RunOutcome (x.toNat + 3) s t

/-- RUN15 is a run of 18 zeros or the ERROR status, as the open parameter says; it holds for both values of the
parameter (40_decoder_symbols.md section 5, the spec's D9; log 4). -/
def Obligations.Run15FollowsTheParameter : Prop :=
  ∀ s : State, s.Decoding → s.runPending = true →
    ∃ t, exec .run15 s = .next t ∧ EscapeInRunOutcome Config.escInRun s t

/-- An operand of 16 or more sets ERROR and changes nothing else, with and without a pending run
(40_decoder_symbols.md R75). -/
def Obligations.InvalidOperandOnlySetsError : Prop :=
  ∀ (s : State) (pending : Bool) (v : Byte), s.Decoding → 16 ≤ v.toNat →
    exec (.invalid pending v) s = .next { s with status := .error }

/-- A symbol asked for where the decode table does not read it is refused by name: LIT and ESC with a run pending,
RUN and RUN15 with none, and an operand outside its row in either mode (30_encoding.md section 4; the refusal is the
model's choice, log 11). -/
def Obligations.SymbolsOutsideTheirRowAreRefused : Prop :=
  ∀ s : State, s.Decoding →
    (s.runPending = true →
      exec .esc s = .refused .symbolNotDecoded ∧ ∀ v, exec (.lit v) s = .refused .symbolNotDecoded) ∧
    (s.runPending = false →
      exec .run15 s = .refused .symbolNotDecoded ∧ ∀ x, exec (.run x) s = .refused .symbolNotDecoded) ∧
    exec (.lit 15) s = .refused .symbolNotDecoded ∧
    exec (.run 15) s = .refused .symbolNotDecoded ∧
    ∀ p v, v.toNat ≤ 15 → exec (.invalid p v) s = .refused .symbolNotDecoded

/-- A literal met with the cursor above 180 in a status that decodes, which no run reaches, stops with a fault: its
write would fall outside the linear buffer (20_memory.md section 3; the fault is the model's choice, log 10). -/
def Obligations.LitOutsideTheBufferFaults : Prop :=
  ∀ (s : State) (v : Nybble), s.Decoding → s.runPending = false → v.toNat ≤ 14 → 181 ≤ s.cursor.toNat →
    exec (.lit v) s = .fault .linearIndexOutside

/-- In COMPLETE and in ERROR every nybble is discarded: no operation that feeds the decoder, and no symbol, changes
anything (42_host_operations.md section 3, the spec's decision D8; log 8). -/
def Obligations.TerminalStatusDiscardsNybbles : Prop :=
  ∀ s : State, s.status = .complete ∨ s.status = .error →
    (∀ v, exec (.nyb v) s = .next s) ∧ (∀ b, exec (.byte b) s = .next s) ∧
    exec .esc s = .next s ∧ exec .run15 s = .next s ∧ (∀ v, exec (.lit v) s = .next s) ∧
    (∀ x, exec (.run x) s = .next s) ∧ ∀ p v, exec (.invalid p v) s = .next s

/-! ### Feeding the decoder -/

/-- The decoder step chooses the symbol by the dispatch of 40_decoder_symbols.md R70: 16 or more first, in both modes,
then by run_pending, then 15. What INVALID itself does, and leaves, is stated in `InvalidOperandOnlySetsError`. -/
def Obligations.NybChoosesTheSymbol : Prop :=
  ∀ (s : State) (v : Byte), s.Decoding →
    exec (.nyb v) s =
      if 16 ≤ v.toNat then exec (.invalid s.runPending v) s
      else if s.runPending = false then
        if v.toNat = 15 then exec .esc s else exec (.lit (v.setWidth 4)) s
      else if v.toNat = 15 then exec .run15 s else exec (.run (v.setWidth 4)) s

/-- NYB completes on every operand in every state that decodes with a cursor of at most 180, and leaves what the
operand's row says (40_decoder_symbols.md sections 1 to 7; the parts D9, D10 and D20 are the spec's own). -/
def Obligations.NybDecodesItsOperand : Prop :=
  ∀ (s : State) (v : Byte), s.Decoding → s.cursor.toNat ≤ 180 →
    ∃ t, exec (.nyb v) s = .next t ∧ DecodeOutcome v s t

/-- BYTE completes in every state that meets the invariants: it is NYB of the low half and then NYB of the high half
(42_host_operations.md section 4, the spec's decision D23; the order is 20_memory.md section 2). -/
def Obligations.ByteIsLowThenHighNybble : Prop :=
  ∀ (s : State) (b : Byte), s.Inv →
    ∃ m t, exec (.nyb ((b.extractLsb' 0 4).setWidth 8)) s = .next m ∧
      exec (.nyb ((b.extractLsb' 4 4).setWidth 8)) m = .next t ∧ exec (.byte b) s = .next t

/-- A stream of bytes spells the nybble stream low half first, byte after byte, in every state and to every outcome
(20_memory.md R32). -/
def Obligations.ByteStreamSpellsItsNybbleStream : Prop :=
  ∀ (bs : List Byte) (s : State),
    feedBytes bs s = feedNybbles (bs.flatMap fun b => [b.extractLsb' 0 4, b.extractLsb' 4 4]) s

/-- run_pending after an admitted nybble: unchanged by an error, otherwise set exactly by an escape met with no run
pending (10_state.md sections 2 and 7; that an error leaves it is the spec's decision D10, log 18). -/
def Obligations.RunPendingTracksTheEscape : Prop :=
  ∀ (s t : State) (v : Byte), s.Decoding → exec (.nyb v) s = .next t →
    if t.status = .error then t.runPending = s.runPending
    else t.runPending = (decide (v.toNat = 15) && !s.runPending)

/-- The status after an admitted nybble: never BEGIN, COMPLETE exactly when the cursor is 181, and from BEGIN neither
COMPLETE nor more than one cell (40_decoder_symbols.md section 8). -/
def Obligations.StatusAfterANybble : Prop :=
  ∀ (s : State) (v : Byte), s.Inv → s.Decoding →
    ∃ t, exec (.nyb v) s = .next t ∧ t.status ≠ .begin ∧ (t.status = .complete ↔ t.cursor.toNat = 181) ∧
      (s.status = .begin → t.status ≠ .complete ∧ t.cursor.toNat ≤ 1)

/-! ### The ERROR status -/

/-- Entering ERROR changes the status and nothing else, the `error` output rises, and every nybble presented in the
state it leaves has no effect. For BYTE it is the failing half that changes nothing else: either the low half is the one
that failed and the high half has no effect, or the low half had its full effect and the high half is the one that
failed (60_exceptions.md R127; that run_pending keeps its value is the spec's decision D10, log 18, and that later
nybbles are discarded its decision D8, log 8). -/
def Obligations.EnteringErrorChangesOnlyTheStatus : Prop :=
  ∀ (s t : State) (i : Instr), s.status ≠ .error → exec i s = .next t → t.status = .error →
    ((∀ b, i ≠ .byte b) → t = { s with status := .error }) ∧
    (∀ b, i = .byte b →
      (exec (.nyb ((b.extractLsb' 0 4).setWidth 8)) s = .next t ∧ t = { s with status := .error }) ∨
      ∃ m, exec (.nyb ((b.extractLsb' 0 4).setWidth 8)) s = .next m ∧ m.status ≠ .error ∧
        exec (.nyb ((b.extractLsb' 4 4).setWidth 8)) m = .next t ∧ t = { m with status := .error }) ∧
    s.errorOutput = false ∧ t.errorOutput = true ∧
    (∀ v, exec (.nyb v) t = .next t) ∧ ∀ b, exec (.byte b) t = .next t

/-- An admitted nybble ends in ERROR exactly by one of the three causes, and RST, RDPIX, RDLIN and ASSEMBLE complete
and never enter ERROR (60_exceptions.md R120). -/
def Obligations.ErrorHasExactlyItsCauses : Prop :=
  (∀ (s : State) (v : Byte), s.Decoding → s.cursor.toNat ≤ 180 →
    ∃ t, exec (.nyb v) s = .next t ∧
      (t.status = .error ↔
        16 ≤ v.toNat ∨
        (s.runPending = true ∧ v.toNat ≤ 14 ∧ 181 < s.cursor.toNat + v.toNat + 3) ∨
        (s.runPending = true ∧ v.toNat = 15 ∧ escapeInRunFails Config.escInRun s.cursor.toNat))) ∧
  ∀ (s : State) (a : Byte) (i : Instr), i ∈ [.rst a, .rdpix a, .rdlin a, .assemble] →
    ∃ t, exec i s = .next t ∧ (t.status = .error → s.status = .error ∧ i ≠ .rst a)

/-! ### Reset and the reads -/

/-- RST completes in every status with every operand and leaves the reset values; the port's output, the operations to
come and the draw count stay (10_state.md section 9, of which the zeros of the linear buffer and the unspecified grid
are the spec's decisions D5 and D6; logs 6 and 7). -/
def Obligations.RstLeavesTheResetValues : Prop :=
  ∀ (s : State) (din : Byte), ∃ t, exec (.rst din) s = .next t ∧
    t.status = .begin ∧ t.cursor = 0 ∧ t.runPending = false ∧
    (∀ i, readLinear t.linearBuffer i = 0) ∧ (∀ g, readGrid t.gridImage g = none) ∧
    t.stat = 0 ∧ t.completeOutput = false ∧ t.errorOutput = false ∧
    t.dout = s.dout ∧ t.hostOps = s.hostOps ∧ t.draws = s.draws

/-- In COMPLETE, RDPIX of the grid index of linear cell k returns the table's value of that cell's code, and of an
inactive cell 0; no other state changes (42_host_operations.md section 5 and 41_image_assembly.md sections 3 and 4;
the grid's layout is the spec's decision D11, log 17). -/
def Obligations.RdpixReturnsTheImage : Prop :=
  ∀ s : State, s.Inv → s.status = .complete →
    (∀ k, k ≤ 180 → ∃ b, printedLut[(readLinear s.linearBuffer k).toNat]? = some b ∧
      exec (.rdpix (BitVec.ofNat 8 (printedGridIndex k))) s = .next { s with dout := some b }) ∧
    ∀ g ∈ printedInactive, exec (.rdpix (BitVec.ofNat 8 g)) s = .next { s with dout := some 0 }

/-- Outside COMPLETE, or with an index of 195 or more, RDPIX returns some byte the model does not determine, and no
state of the block changes (42_host_operations.md section 5, the spec's decisions D6 and D12; log 5). -/
def Obligations.RdpixElsewhereReturnsAFreeByte : Prop :=
  ∀ (s : State) (g : Byte), s.status ≠ .complete ∨ 195 ≤ g.toNat →
    ∃ b, exec (.rdpix g) s = .next { s with dout := some b, draws := s.draws + 1 }

/-- In every status RDLIN returns the linear cell, or, with an index of 181 or more, some byte the model does not
determine, and no state of the block changes (42_host_operations.md section 6, the spec's decisions D12 and D24;
log 5). -/
def Obligations.RdlinReturnsTheCell : Prop :=
  ∀ (s : State) (i : Byte),
    if i.toNat ≤ 180 then
      exec (.rdlin i) s = .next { s with dout := some (readLinear s.linearBuffer i.toNat) }
    else ∃ b, exec (.rdlin i) s = .next { s with dout := some b, draws := s.draws + 1 }

/-- The reserved operations 5, 6 and 7 are refused in every state (42_host_operations.md section 8, the spec's
decision D13; log 9). -/
def Obligations.ReservedOperationsAreRefused : Prop :=
  ∀ (s : State) (din : Byte), exec (.reserved5 din) s = .refused .reservedOperation ∧
    exec (.reserved6 din) s = .refused .reservedOperation ∧
    exec (.reserved7 din) s = .refused .reservedOperation

/-- The four codes of the status names, the status word's layout and the two outputs, in every state (10_state.md R13
and R16 and 60_exceptions.md R125; the codes and the packaging are the spec's decisions D3 and D4, log 17). -/
def Obligations.StatusWordLayout : Prop :=
  (Status.begin.code = 0 ∧ Status.inProgress.code = 1 ∧ Status.complete.code = 2 ∧ Status.error.code = 3) ∧
  ∀ s : State,
    s.stat.toNat = s.status.code.toNat * 512 + s.runPending.toNat * 256 + s.cursor.toNat ∧
    (s.completeOutput = true ↔ s.status = .complete) ∧ (s.errorOutput = true ↔ s.status = .error) ∧
    (s.completeOutput = true ↔ s.stat.toNat / 512 = 2) ∧ (s.errorOutput = true ↔ s.stat.toNat / 512 = 3)

/-! ### ASSEMBLE -/

/-- ASSEMBLE completes in every state, gives every one of the 195 cells a value and changes nothing but the grid
image; where the linear cells hold codes 0 to 14, as every linear cell does, each grid cell has its value by the printed
row table and grayscale table (41_image_assembly.md sections 4 and 5). That ASSEMBLE runs by itself, in any state, is the
model's choice (log 19), as is a value, there undetermined, for every cell where codes pass 14 (log 12); the cell's place
`15 * row + col` is the spec's decision D11 (log 17). -/
def Obligations.AssembleBuildsTheGrid : Prop :=
  ∀ s : State, ∃ m, exec .assemble s = .next { s with gridImage := m } ∧
    (∀ g, g ≤ 194 → readGrid m g ≠ none) ∧
    ((∀ i, i ≤ 180 → (readLinear s.linearBuffer i).toNat ≤ 14) →
      ∀ row col, row ≤ 12 → col ≤ 14 → readGrid m (15 * row + col) = printedPixel s.linearBuffer row col)

/-- The loop of the pseudocode with its running index k writes the cells ASSEMBLE lists, and ends with k = 181
(41_image_assembly.md section 5). -/
def Obligations.AssembleLoopWritesTheSameCells : Prop :=
  ∀ linear : List Host.Cell, assembleLoop linear (List.range 13) 0 = (assembleGrid linear, 181)

/-- The grayscale table entry by entry (the list of 41_image_assembly.md R94; that ASSEMBLE stores the entry in the grid
is stated in `AssembleBuildsTheGrid`). -/
def Obligations.GrayscaleTableIsThePrintedOne : Prop :=
  ∀ c : Byte, c.toNat ≤ 14 → printedLut[c.toNat]? = some (grayscale c)

/-- The closed form of the grayscale table (41_image_assembly.md section 5, derived there). -/
def Obligations.GrayscaleClosedForm : Prop :=
  ∀ c : Byte, c.toNat ≤ 14 → (grayscale c).toNat = (255 * c.toNat + 7) / 14

/-- The map from linear to grid index: the closed form of each k lands on an active cell whose linear index is k, the
map is strictly increasing, and the cells that are not active are the printed 14 (41_image_assembly.md sections 3 and
4, the layout the spec's decision D11). -/
def Obligations.GridMapIsThePrintedOne : Prop :=
  (∀ k ≤ 180, activeCell (printedGridIndex k / 15) (printedGridIndex k % 15) = true ∧
    linearIndex (printedGridIndex k / 15) (printedGridIndex k % 15) = k) ∧
  (∀ k < 180, printedGridIndex k < printedGridIndex (k + 1)) ∧
  ∀ g < 195, (activeCell (g / 15) (g % 15) = false ↔ g ∈ printedInactive)

/-- Every pixel of a completed image is one of the 15 values of the table (10_state.md section 6, derived there). -/
def Obligations.CompletedPixelsAreTableValues : Prop :=
  ∀ s : State, s.Inv → s.status = .complete → ∀ g < 195, ∃ b ∈ printedLut, readGrid s.gridImage g = some b

/-! ### Whole-machine rules -/

/-- The state after reset meets the invariants, its undecoded cells are 0, and its status word is 0 (10_state.md
sections 7 and 9; the zeros are the spec's decision D5). -/
def Obligations.ResetMeetsTheInvariants : Prop :=
  State.reset.Inv ∧ State.reset.TailZero ∧ State.reset.stat = 0

/-- Every step keeps the invariants: the range of the cursor, the codes, COMPLETE exactly at 181, BEGIN fresh, nothing
pending in COMPLETE, the image of COMPLETE, and the canonical form of both buffers (10_state.md section 7). -/
def Obligations.StepKeepsTheInvariants : Prop :=
  ∀ s t : State, s.Inv → step s = .next t → t.Inv

/-- Every step keeps the cells at or above the cursor at 0 (42_host_operations.md section 6, on the spec's decision
D5; log 7). -/
def Obligations.StepKeepsUndecodedCellsZero : Prop :=
  ∀ s t : State, s.TailZero → step s = .next t → t.TailZero

/-- In a state that meets the invariants every step answers a next state, but for the three reserved operations, which
are refused (60_exceptions.md sections 1 and 7; the refusal is log 9). -/
def Obligations.StepsStopOnlyOnReservedOperations : Prop :=
  ∀ s : State, s.Inv →
    (∃ t, step s = .next t) ∨
    ∃ w rest, s.hostOps = .command w :: rest ∧ 5 ≤ w.toNat / 256 ∧ step s = .refused .reservedOperation

/-- Reset is the only way out of COMPLETE and ERROR, and the only operation that lowers the cursor or clears a decoded
cell; it applies in every status and discards the image (10_state.md section 9, rules R21 and R22, and
42_host_operations.md section 2, rule R101). That a reset leaves every linear cell 0 is the spec's decision D5 (log 7),
every grid cell unspecified its decision D6 (log 6, DEDUCED), the `rst` input with the effect of RST its decision D7, and
that input as an entry of the list of operations is the model's (logs 1 and 3, DEDUCED); the cells at or above the cursor
are left out of the first clause. -/
def Obligations.ResetIsTheOnlyWayBack : Prop :=
  ∀ (s : State) (op : HostOp) (rest : List HostOp), s.hostOps = op :: rest →
    (op.isReset = false → ∀ t, step s = .next t →
      (s.status = .complete ∨ s.status = .error → t.status = s.status) ∧
      s.cursor.toNat ≤ t.cursor.toNat ∧
      ∀ i, i < s.cursor.toNat → readLinear t.linearBuffer i = readLinear s.linearBuffer i) ∧
    (op.isReset = true → ∃ t, step s = .next t ∧ t.status = .begin ∧ t.cursor = 0 ∧ t.runPending = false ∧
      (∀ i, readLinear t.linearBuffer i = 0) ∧ ∀ g, readGrid t.gridImage g = none)

/-- Between resets the grid image changes only in the step that completes the image, which builds it from the linear
buffer (41_image_assembly.md section 1; 20_memory.md section 11). -/
def Obligations.GridChangesOnlyAtCompletion : Prop :=
  ∀ (s t : State) (op : HostOp) (rest : List HostOp), s.hostOps = op :: rest → op.isReset = false →
    step s = .next t →
    (t.gridImage = s.gridImage ∧ (t.status = .complete → s.status = .complete)) ∨
    (s.Decoding ∧ s.cursor.toNat ≤ 180 ∧ t.cursor.toNat = 181 ∧ t.status = .complete ∧
      t.gridImage = assembleGrid t.linearBuffer)

/-- Two states that differ only in linear cells at or above the cursor step alike and stay so, and at completion no
such cell is left: the image does not depend on cells that were not decoded since the reset. RDLIN of such a cell,
which returns it, is left out (10_state.md section 7 item 6, derived there). -/
def Obligations.ImageIndependentOfUndecodedCells : Prop :=
  ∀ s t : State, AgreeBelowCursor s t →
    (∀ i rest, s.hostOps = .command (commandWord 4 i) :: rest → i.toNat < s.cursor.toNat ∨ 181 ≤ i.toNat) →
    OutcomesAgree AgreeBelowCursor (step s) (step t)

/-! ### Streams -/

/-- Any legal spelling of codes, literals and runs mixed as one likes, decodes to those codes from the cursor on,
wherever they fit: the cells below stay, nothing is pending at the end, and the status is COMPLETE exactly when the
181st cell is written (40_decoder_symbols.md section 10; 30_encoding.md section 8). -/
def Obligations.LegalSpellingDecodesToItsCodes : Prop :=
  ∀ (ws : List Spelling) (s : State), ws ≠ [] → (∀ w ∈ ws, w.legal = true) → s.Decoding → s.runPending = false →
    s.cursor.toNat + (ws.flatMap Spelling.codes).length ≤ 181 →
    ∃ t, feedNybbles (ws.flatMap Spelling.nybbles) s = .next t ∧
      t.cursor.toNat = s.cursor.toNat + (ws.flatMap Spelling.codes).length ∧ t.runPending = false ∧
      t.status = (if t.cursor.toNat = 181 then .complete else .inProgress) ∧
      t.gridImage = (if t.cursor.toNat = 181 then assembleGrid t.linearBuffer else s.gridImage) ∧
      (∀ i, i < s.cursor.toNat → readLinear t.linearBuffer i = readLinear s.linearBuffer i) ∧
      ∀ k (c : Nybble), (ws.flatMap Spelling.codes)[k]? = some c →
        readLinear t.linearBuffer (s.cursor.toNat + k) = c.setWidth 8

/-- Round trip: the reference encoder's stream of any 181 codes, fed at the start of an image, ends in COMPLETE with
the linear buffer equal to the codes and the image built from it (40_decoder_symbols.md section 10 item b; the
encoder's cut at 17 is the spec's decision D16). -/
def Obligations.ReferenceEncoderRoundTrip : Prop :=
  ∀ (codes : List Nybble) (s : State), codes.length = 181 → (∀ c ∈ codes, c.toNat ≤ 14) →
    s.Decoding → s.runPending = false → s.cursor = 0 →
    ∃ t, feedNybbles (encodeStream codes) s = .next t ∧ t.status = .complete ∧
      t.gridImage = assembleGrid t.linearBuffer ∧
      ∀ k (c : Nybble), codes[k]? = some c → readLinear t.linearBuffer k = c.setWidth 8

/-- The reference encoder's stream of 181 codes has between 22 and 181 nybbles (30_encoding.md section 8, derived
there). -/
def Obligations.EncodedStreamLengthBounds : Prop :=
  ∀ codes : List Nybble, codes.length = 181 →
    22 ≤ (encodeStream codes).length ∧ (encodeStream codes).length ≤ 181
end

