-- ==== Sys2Proof/Laws/Assembler.lean ====
section
/-! SUPPORT. What ASSEMBLE lists in the grid image, and what it reads. -/

namespace Sys2Proof.Machine

open Sys2Proof

theorem lookupCell_map_of_mem (f : Nat → Byte) (g : Nat) :
    ∀ l : List Nat, g ∈ l → lookupCell (l.map fun i => (i, f i)) g = some (f g)
  | a :: rest, h => by
    simp only [List.map_cons, lookupCell]
    split
    · next e => rw [e]
    · next ne => exact lookupCell_map_of_mem f g rest ((List.mem_cons.1 h).resolve_left fun e => ne e.symm)

/-- After ASSEMBLE every cell of the grid has the value its row and column give it. -/
theorem readGrid_assembleGrid (linear : List Host.Cell) {g : Nat} (h : g < nGrid) :
    readGrid (assembleGrid linear) g = some (pixelAt linear (g / nCols) (g % nCols)) :=
  lookupCell_map_of_mem (fun g => pixelAt linear (g / nCols) (g % nCols)) g _ (List.mem_range.2 h)

theorem gridWf_assembleGrid (linear : List Host.Cell) : gridWf (assembleGrid linear) := by
  refine ⟨?_, fun c hc => ?_⟩
  · simpa [cellsRising, assembleGrid, List.pairwise_map] using List.pairwise_lt_range
  · obtain ⟨g, hg, rfl⟩ := List.mem_map.1 hc
    exact List.mem_range.1 hg

/-- The active cells take their values from inside the linear buffer. -/
theorem linearIndex_lt : ∀ g < nGrid, activeCell (g / nCols) (g % nCols) = true →
    linearIndex (g / nCols) (g % nCols) < nLin := by
  have h : ∀ row < nRows, ∀ col < nCols, activeCell row col = true → linearIndex row col < nLin := by decide
  intro g hg
  exact h _ (by simp only [nGrid, nCols, nRows] at *; omega) _ (by simp only [nCols]; omega)

/-- The image depends on the 181 cells of the linear buffer and on nothing else. -/
theorem assembleGrid_congr {a b : List Host.Cell} (h : ∀ k < nLin, readLinear a k = readLinear b k) :
    assembleGrid a = assembleGrid b := by
  refine List.map_congr_left fun g hg => ?_
  simp only [pixelAt]
  split
  · next ha => rw [h _ (linearIndex_lt g (List.mem_range.1 hg) ha)]
  · rfl

@[simp] theorem assembleState_gridImage (s : State) : (assembleState s).gridImage = assembleGrid s.linearBuffer := rfl
@[simp] theorem assembleState_cursor (s : State) : (assembleState s).cursor = s.cursor := rfl
@[simp] theorem assembleState_runPending (s : State) : (assembleState s).runPending = s.runPending := rfl
@[simp] theorem assembleState_status (s : State) : (assembleState s).status = s.status := rfl
@[simp] theorem assembleState_linearBuffer (s : State) : (assembleState s).linearBuffer = s.linearBuffer := rfl
@[simp] theorem assembleState_dout (s : State) : (assembleState s).dout = s.dout := rfl
@[simp] theorem assembleState_hostOps (s : State) : (assembleState s).hostOps = s.hostOps := rfl
@[simp] theorem assembleState_draws (s : State) : (assembleState s).draws = s.draws := rfl

end Sys2Proof.Machine
end

