-- ==== Sys2Proof/Laws/Memory.lean ====
section
/-! SUPPORT. Reading after writing one cell, and the canonical form under every memory operation. -/

namespace Sys2Proof.Machine

open Sys2Proof

/-! ### Lists of cells -/

theorem lookupCell_insertCell (m : List Host.Cell) (i j : Nat) (v : Byte) :
    lookupCell (insertCell m i v) j = if j = i then some v else lookupCell m j := by
  induction m with
  | nil => simp [insertCell, lookupCell, eq_comm]
  | cons c rest ih =>
    simp only [insertCell]
    split
    · simp only [lookupCell, eq_comm]
    · split
      · next he => simp only [lookupCell, ← he]; by_cases hj : i = j <;> simp [hj, eq_comm (a := j)]
      · next hne => simp only [lookupCell, ih]; by_cases hc : c.1 = j <;> by_cases hj : j = i <;> simp_all

theorem lookupCell_eraseCell (m : List Host.Cell) (i j : Nat) :
    lookupCell (eraseCell m i) j = if j = i then none else lookupCell m j := by
  induction m with
  | nil => simp [eraseCell, lookupCell]
  | cons c rest ih =>
    simp only [eraseCell] at ih
    by_cases h : c.1 = i
    · rw [eraseCell, List.filter_cons_of_neg (by simp [h]), ih]
      by_cases hj : j = i
      · simp [hj]
      · simp [hj, lookupCell, h, Ne.symm hj]
    · rw [eraseCell, List.filter_cons_of_pos (by simp [h])]
      simp only [lookupCell, ih]
      by_cases hc : c.1 = j <;> by_cases hj : j = i <;> simp_all

theorem mem_insertCell {m : List Host.Cell} {i : Nat} {v : Byte} {c : Host.Cell} (h : c ∈ insertCell m i v) :
    c = (i, v) ∨ c ∈ m := by
  induction m with
  | nil => simpa [insertCell] using h
  | cons d rest ih =>
    simp only [insertCell] at h
    split at h
    · simpa using h
    · split at h
      · rcases List.mem_cons.1 h with h | h
        · exact .inl h
        · exact .inr (List.mem_cons_of_mem _ h)
      · rcases List.mem_cons.1 h with h | h
        · exact .inr (h ▸ List.mem_cons_self)
        · exact (ih h).imp_right (List.mem_cons_of_mem _)

theorem cellsRising_insertCell {m : List Host.Cell} (h : cellsRising m) (i : Nat) (v : Byte) :
    cellsRising (insertCell m i v) := by
  induction m with
  | nil => simp [insertCell]
  | cons c rest ih =>
    obtain ⟨hc, hr⟩ := List.pairwise_cons.1 h
    simp only [insertCell]
    split
    · next hi =>
      refine List.pairwise_cons.2 ⟨fun d hd => ?_, h⟩
      rcases List.mem_cons.1 hd with rfl | hd
      · exact hi
      · exact Nat.lt_trans hi (hc d hd)
    · split
      · next he => exact List.pairwise_cons.2 ⟨fun d hd => he ▸ hc d hd, hr⟩
      · refine List.pairwise_cons.2 ⟨fun d hd => ?_, ih hr⟩
        rcases mem_insertCell hd with rfl | hd
        · show c.1 < i; omega
        · exact hc d hd

theorem cellsRising_eraseCell {m : List Host.Cell} (h : cellsRising m) (i : Nat) : cellsRising (eraseCell m i) :=
  List.Pairwise.filter _ h

/-! ### The linear buffer -/

@[simp] theorem readLinear_nil (i : Nat) : readLinear [] i = 0 := rfl

/-- A read after a write: the value at the written cell, the old value everywhere else. -/
theorem readLinear_writeLinear (m : List Host.Cell) (i j : Nat) (v : Byte) :
    readLinear (writeLinear m i v) j = if j = i then v else readLinear m j := by
  unfold readLinear writeLinear
  split
  · next h => rw [lookupCell_eraseCell]; split <;> simp [h]
  · rw [lookupCell_insertCell]; split <;> simp

theorem linearWf_nil : linearWf [] := by decide

theorem linearWf_writeLinear {m : List Host.Cell} (h : linearWf m) {i : Nat} (hi : i < nLin) (v : Byte) :
    linearWf (writeLinear m i v) := by
  unfold writeLinear
  split
  · exact ⟨cellsRising_eraseCell h.1 i, fun c hc => h.2 c (List.mem_of_mem_filter hc)⟩
  · next hv =>
    refine ⟨cellsRising_insertCell h.1 i v, fun c hc => ?_⟩
    rcases mem_insertCell hc with rfl | hc
    · exact ⟨hi, hv⟩
    · exact h.2 c hc

/-- A read after a run of zeros: 0 in the run, the old value everywhere else. -/
theorem readLinear_writeZeros (m : List Host.Cell) (i n j : Nat) :
    readLinear (writeZeros m i n) j = if i ≤ j ∧ j < i + n then 0 else readLinear m j := by
  induction n generalizing m i with
  | zero => rw [if_neg (by omega)]; rfl
  | succ n ih =>
    simp only [writeZeros, ih, readLinear_writeLinear]
    split <;> split <;> first | rfl | (split <;> first | rfl | omega) | omega

theorem linearWf_writeZeros {m : List Host.Cell} (h : linearWf m) {i n : Nat} (hi : i + n ≤ nLin) :
    linearWf (writeZeros m i n) := by
  induction n generalizing m i with
  | zero => exact h
  | succ n ih => exact ih (linearWf_writeLinear h (by omega) 0) (by omega)

theorem gridWf_nil : gridWf [] := by decide

end Sys2Proof.Machine
end

