-- ==== Sys2Proof/Laws/State.lean ====
section
/-! SUPPORT. What each named update of State does to each field; every lemma holds by unfolding the update. -/

namespace Sys2Proof.Machine

open Sys2Proof

@[simp] theorem State.setCursor_cursor (s : State) (c : Byte) : (s.setCursor c).cursor = c := rfl
@[simp] theorem State.setCursor_runPending (s : State) (c : Byte) : (s.setCursor c).runPending = s.runPending := rfl
@[simp] theorem State.setCursor_status (s : State) (c : Byte) : (s.setCursor c).status = s.status := rfl
@[simp] theorem State.setCursor_linearBuffer (s : State) (c : Byte) : (s.setCursor c).linearBuffer = s.linearBuffer := rfl
@[simp] theorem State.setCursor_gridImage (s : State) (c : Byte) : (s.setCursor c).gridImage = s.gridImage := rfl
@[simp] theorem State.setCursor_dout (s : State) (c : Byte) : (s.setCursor c).dout = s.dout := rfl
@[simp] theorem State.setCursor_hostOps (s : State) (c : Byte) : (s.setCursor c).hostOps = s.hostOps := rfl
@[simp] theorem State.setCursor_draws (s : State) (c : Byte) : (s.setCursor c).draws = s.draws := rfl

@[simp] theorem State.setRunPending_cursor (s : State) (p : Bool) : (s.setRunPending p).cursor = s.cursor := rfl
@[simp] theorem State.setRunPending_runPending (s : State) (p : Bool) : (s.setRunPending p).runPending = p := rfl
@[simp] theorem State.setRunPending_status (s : State) (p : Bool) : (s.setRunPending p).status = s.status := rfl
@[simp] theorem State.setRunPending_linearBuffer (s : State) (p : Bool) : (s.setRunPending p).linearBuffer = s.linearBuffer := rfl
@[simp] theorem State.setRunPending_gridImage (s : State) (p : Bool) : (s.setRunPending p).gridImage = s.gridImage := rfl
@[simp] theorem State.setRunPending_dout (s : State) (p : Bool) : (s.setRunPending p).dout = s.dout := rfl
@[simp] theorem State.setRunPending_hostOps (s : State) (p : Bool) : (s.setRunPending p).hostOps = s.hostOps := rfl
@[simp] theorem State.setRunPending_draws (s : State) (p : Bool) : (s.setRunPending p).draws = s.draws := rfl

@[simp] theorem State.setStatus_cursor (s : State) (st : Status) : (s.setStatus st).cursor = s.cursor := rfl
@[simp] theorem State.setStatus_runPending (s : State) (st : Status) : (s.setStatus st).runPending = s.runPending := rfl
@[simp] theorem State.setStatus_status (s : State) (st : Status) : (s.setStatus st).status = st := rfl
@[simp] theorem State.setStatus_linearBuffer (s : State) (st : Status) : (s.setStatus st).linearBuffer = s.linearBuffer := rfl
@[simp] theorem State.setStatus_gridImage (s : State) (st : Status) : (s.setStatus st).gridImage = s.gridImage := rfl
@[simp] theorem State.setStatus_dout (s : State) (st : Status) : (s.setStatus st).dout = s.dout := rfl
@[simp] theorem State.setStatus_hostOps (s : State) (st : Status) : (s.setStatus st).hostOps = s.hostOps := rfl
@[simp] theorem State.setStatus_draws (s : State) (st : Status) : (s.setStatus st).draws = s.draws := rfl

@[simp] theorem State.setLinear_cursor (s : State) (m : List Host.Cell) : (s.setLinear m).cursor = s.cursor := rfl
@[simp] theorem State.setLinear_runPending (s : State) (m : List Host.Cell) : (s.setLinear m).runPending = s.runPending := rfl
@[simp] theorem State.setLinear_status (s : State) (m : List Host.Cell) : (s.setLinear m).status = s.status := rfl
@[simp] theorem State.setLinear_linearBuffer (s : State) (m : List Host.Cell) : (s.setLinear m).linearBuffer = m := rfl
@[simp] theorem State.setLinear_gridImage (s : State) (m : List Host.Cell) : (s.setLinear m).gridImage = s.gridImage := rfl
@[simp] theorem State.setLinear_dout (s : State) (m : List Host.Cell) : (s.setLinear m).dout = s.dout := rfl
@[simp] theorem State.setLinear_hostOps (s : State) (m : List Host.Cell) : (s.setLinear m).hostOps = s.hostOps := rfl
@[simp] theorem State.setLinear_draws (s : State) (m : List Host.Cell) : (s.setLinear m).draws = s.draws := rfl

@[simp] theorem State.setGrid_cursor (s : State) (m : List Host.Cell) : (s.setGrid m).cursor = s.cursor := rfl
@[simp] theorem State.setGrid_runPending (s : State) (m : List Host.Cell) : (s.setGrid m).runPending = s.runPending := rfl
@[simp] theorem State.setGrid_status (s : State) (m : List Host.Cell) : (s.setGrid m).status = s.status := rfl
@[simp] theorem State.setGrid_linearBuffer (s : State) (m : List Host.Cell) : (s.setGrid m).linearBuffer = s.linearBuffer := rfl
@[simp] theorem State.setGrid_gridImage (s : State) (m : List Host.Cell) : (s.setGrid m).gridImage = m := rfl
@[simp] theorem State.setGrid_dout (s : State) (m : List Host.Cell) : (s.setGrid m).dout = s.dout := rfl
@[simp] theorem State.setGrid_hostOps (s : State) (m : List Host.Cell) : (s.setGrid m).hostOps = s.hostOps := rfl
@[simp] theorem State.setGrid_draws (s : State) (m : List Host.Cell) : (s.setGrid m).draws = s.draws := rfl

@[simp] theorem State.setDout_cursor (s : State) (d : Option Byte) : (s.setDout d).cursor = s.cursor := rfl
@[simp] theorem State.setDout_runPending (s : State) (d : Option Byte) : (s.setDout d).runPending = s.runPending := rfl
@[simp] theorem State.setDout_status (s : State) (d : Option Byte) : (s.setDout d).status = s.status := rfl
@[simp] theorem State.setDout_linearBuffer (s : State) (d : Option Byte) : (s.setDout d).linearBuffer = s.linearBuffer := rfl
@[simp] theorem State.setDout_gridImage (s : State) (d : Option Byte) : (s.setDout d).gridImage = s.gridImage := rfl
@[simp] theorem State.setDout_dout (s : State) (d : Option Byte) : (s.setDout d).dout = d := rfl
@[simp] theorem State.setDout_hostOps (s : State) (d : Option Byte) : (s.setDout d).hostOps = s.hostOps := rfl
@[simp] theorem State.setDout_draws (s : State) (d : Option Byte) : (s.setDout d).draws = s.draws := rfl

@[simp] theorem State.setHostOps_cursor (s : State) (ops : List HostOp) : (s.setHostOps ops).cursor = s.cursor := rfl
@[simp] theorem State.setHostOps_runPending (s : State) (ops : List HostOp) : (s.setHostOps ops).runPending = s.runPending := rfl
@[simp] theorem State.setHostOps_status (s : State) (ops : List HostOp) : (s.setHostOps ops).status = s.status := rfl
@[simp] theorem State.setHostOps_linearBuffer (s : State) (ops : List HostOp) : (s.setHostOps ops).linearBuffer = s.linearBuffer := rfl
@[simp] theorem State.setHostOps_gridImage (s : State) (ops : List HostOp) : (s.setHostOps ops).gridImage = s.gridImage := rfl
@[simp] theorem State.setHostOps_dout (s : State) (ops : List HostOp) : (s.setHostOps ops).dout = s.dout := rfl
@[simp] theorem State.setHostOps_hostOps (s : State) (ops : List HostOp) : (s.setHostOps ops).hostOps = ops := rfl
@[simp] theorem State.setHostOps_draws (s : State) (ops : List HostOp) : (s.setHostOps ops).draws = s.draws := rfl

@[simp] theorem State.setDraws_cursor (s : State) (n : Nat) : (s.setDraws n).cursor = s.cursor := rfl
@[simp] theorem State.setDraws_runPending (s : State) (n : Nat) : (s.setDraws n).runPending = s.runPending := rfl
@[simp] theorem State.setDraws_status (s : State) (n : Nat) : (s.setDraws n).status = s.status := rfl
@[simp] theorem State.setDraws_linearBuffer (s : State) (n : Nat) : (s.setDraws n).linearBuffer = s.linearBuffer := rfl
@[simp] theorem State.setDraws_gridImage (s : State) (n : Nat) : (s.setDraws n).gridImage = s.gridImage := rfl
@[simp] theorem State.setDraws_dout (s : State) (n : Nat) : (s.setDraws n).dout = s.dout := rfl
@[simp] theorem State.setDraws_hostOps (s : State) (n : Nat) : (s.setDraws n).hostOps = s.hostOps := rfl
@[simp] theorem State.setDraws_draws (s : State) (n : Nat) : (s.setDraws n).draws = n := rfl

end Sys2Proof.Machine
end

