-- ==== Sys2Proof/Laws/Ops.lean ====
section
/-! SUPPORT. One lemma per shared operation: everything it can do. -/

namespace Sys2Proof.Machine

open Sys2Proof

/-! ### Sequencing and admission -/

/-- The two operations answer a next state exactly when the first does and the second does from there. -/
theorem andThen_eq_next {o : Host.Outcome State Fault Refusal} {f : State → Host.Outcome State Fault Refusal}
    {t : State} : andThen o f = .next t ↔ ∃ m, o = .next m ∧ f m = .next t := by
  cases o <;> simp [andThen]

@[simp] theorem andThen_next (s : State) (f : State → Host.Outcome State Fault Refusal) :
    andThen (.next s) f = f s := rfl

theorem andThen_assoc (o : Host.Outcome State Fault Refusal) (f g : State → Host.Outcome State Fault Refusal) :
    andThen (andThen o f) g = andThen o fun s => andThen (f s) g := by
  cases o <;> rfl

theorem Status.terminal_eq_false {st : Status} : st.terminal = false ↔ st = .begin ∨ st = .inProgress := by
  cases st <;> decide

theorem Status.terminal_eq_true {st : Status} : st.terminal = true ↔ st = .complete ∨ st = .error := by
  cases st <;> decide

/-- In a status that decodes, an admitted symbol runs its body. -/
theorem admitSymbol_decoding {read : Bool} {s : State} (hs : s.Decoding) (hr : read = true)
    (body : State → Host.Outcome State Fault Refusal) : admitSymbol read s body = body s := by
  simp [admitSymbol, Status.terminal_eq_false.2 hs, hr]

/-- A symbol answers a next state only by being discarded or by running its body. -/
theorem admitSymbol_eq_next {read : Bool} {s t : State} {body : State → Host.Outcome State Fault Refusal}
    (h : admitSymbol read s body = .next t) :
    (s.status.terminal = true ∧ t = s) ∨ (s.Decoding ∧ read = true ∧ body s = .next t) := by
  unfold admitSymbol at h
  split at h
  · next ht => cases h; exact .inl ⟨ht, rfl⟩
  · next ht =>
    split at h
    · next hr => exact .inr ⟨Status.terminal_eq_false.1 (Bool.eq_false_iff.2 ht), hr, h⟩
    · cases h

/-! ### The ERROR status and reset -/

theorem raiseError_eq (cause : ErrorCause) (s : State) : raiseError cause s = { s with status := .error } := rfl

theorem resetBlock_eq (s : State) : resetBlock s =
    { State.reset with dout := s.dout, hostOps := s.hostOps, draws := s.draws } := rfl

@[simp] theorem resetBlock_cursor (s : State) : (resetBlock s).cursor = 0 := rfl
@[simp] theorem resetBlock_runPending (s : State) : (resetBlock s).runPending = false := rfl
@[simp] theorem resetBlock_status (s : State) : (resetBlock s).status = .begin := rfl
@[simp] theorem resetBlock_linearBuffer (s : State) : (resetBlock s).linearBuffer = [] := rfl
@[simp] theorem resetBlock_gridImage (s : State) : (resetBlock s).gridImage = [] := rfl
@[simp] theorem resetBlock_dout (s : State) : (resetBlock s).dout = s.dout := rfl
@[simp] theorem resetBlock_hostOps (s : State) : (resetBlock s).hostOps = s.hostOps := rfl
@[simp] theorem resetBlock_draws (s : State) : (resetBlock s).draws = s.draws := rfl

/-! ### Completion and runs -/

@[simp] theorem completionCheck_cursor (s : State) : (completionCheck s).cursor = s.cursor := by
  unfold completionCheck; split <;> rfl

@[simp] theorem completionCheck_runPending (s : State) : (completionCheck s).runPending = s.runPending := by
  unfold completionCheck; split <;> rfl

@[simp] theorem completionCheck_linearBuffer (s : State) : (completionCheck s).linearBuffer = s.linearBuffer := by
  unfold completionCheck; split <;> rfl

@[simp] theorem completionCheck_dout (s : State) : (completionCheck s).dout = s.dout := by
  unfold completionCheck; split <;> rfl

@[simp] theorem completionCheck_hostOps (s : State) : (completionCheck s).hostOps = s.hostOps := by
  unfold completionCheck; split <;> rfl

@[simp] theorem completionCheck_draws (s : State) : (completionCheck s).draws = s.draws := by
  unfold completionCheck; split <;> rfl

theorem completionCheck_status (s : State) :
    (completionCheck s).status = if s.cursor.toNat = 181 then .complete else s.status := by
  unfold completionCheck nLin; split <;> rfl

theorem completionCheck_gridImage (s : State) :
    (completionCheck s).gridImage = if s.cursor.toNat = 181 then assembleGrid s.linearBuffer else s.gridImage := by
  unfold completionCheck nLin; split <;> rfl

/-- The cursor after a write that fits is the sum, with no wrap (40_decoder_symbols.md R78). -/
theorem cursor_sum_toNat {c n : Nat} (h : c + n ≤ nLin) : (BitVec.ofNat 8 (c + n)).toNat = c + n := by
  simp only [nLin] at h
  simp only [BitVec.toNat_ofNat]
  omega

/-- Everything a run of zeros does. -/
theorem runOfZeros_outcome (n : Nat) (s : State) : RunOutcome n s (runOfZeros n s) := by
  by_cases h : nLin < s.cursor.toNat + n
  · simp only [RunOutcome, runOfZeros, if_pos h]; rfl
  · have hc := cursor_sum_toNat (Nat.not_lt.1 h)
    simp only [RunOutcome, runOfZeros, if_neg h]
    exact
      { cells := fun i => by simp [readLinear_writeZeros]
        cursor := by
          simpa only [completionCheck_cursor, State.setStatus_cursor, State.setRunPending_cursor,
            State.setCursor_cursor] using hc
        runPending := by simp
        status := by
          simp only [completionCheck_status, State.setStatus_cursor, State.setRunPending_cursor,
            State.setCursor_cursor, hc, State.setStatus_status]
        image := by
          simp only [completionCheck_gridImage, State.setStatus_cursor, State.setRunPending_cursor,
            State.setCursor_cursor, hc, completionCheck_linearBuffer]
          rfl
        dout := by simp
        hostOps := by simp
        draws := by simp }

/-- Everything the write of one literal does. -/
theorem literalWrite_outcome {s : State} (hc : s.cursor.toNat < nLin) (hp : s.runPending = false) (v : Byte) :
    CellsWritten 1 v s (completionCheck
      (((s.setLinear (writeLinear s.linearBuffer s.cursor.toNat v)).setCursor
        (BitVec.ofNat 8 (s.cursor.toNat + 1))).setStatus .inProgress)) := by
  have hc := cursor_sum_toNat (c := s.cursor.toNat) (n := 1) (by omega)
  exact
    { cells := fun i => by
        simp only [completionCheck_linearBuffer, State.setStatus_linearBuffer, State.setCursor_linearBuffer,
          State.setLinear_linearBuffer, readLinear_writeLinear]
        split <;> split <;> first | rfl | omega
      cursor := by
        simpa only [completionCheck_cursor, State.setStatus_cursor, State.setCursor_cursor] using hc
      runPending := by simpa using hp
      status := by
        simp only [completionCheck_status, State.setStatus_cursor, State.setCursor_cursor, hc,
          State.setStatus_status]
      image := by
        simp only [completionCheck_gridImage, State.setStatus_cursor, State.setCursor_cursor, hc,
          completionCheck_linearBuffer]
        rfl
      dout := by simp
      hostOps := by simp
      draws := by simp }

/-- Everything a nybble 15 in the place of a run length does, under either value of `P_ESC_IN_RUN`. -/
theorem escapeInRun_outcome (p : EscInRun) (s : State) : EscapeInRunOutcome p s (escapeInRun p s) := by
  cases p with
  | run18 => exact runOfZeros_outcome 18 s
  | error => rfl

/-! ### Reads -/

theorem drawDout_eq (s : State) :
    drawDout s = { s with dout := some (Config.freeByte s.draws), draws := s.draws + 1 } := rfl

/-! ### Beginning an operation -/

@[simp] theorem beginOp_cursor (s : State) (rest : List HostOp) : (beginOp s rest).cursor = s.cursor := rfl
@[simp] theorem beginOp_runPending (s : State) (rest : List HostOp) : (beginOp s rest).runPending = s.runPending := rfl
@[simp] theorem beginOp_status (s : State) (rest : List HostOp) : (beginOp s rest).status = s.status := rfl
@[simp] theorem beginOp_linearBuffer (s : State) (rest : List HostOp) : (beginOp s rest).linearBuffer = s.linearBuffer := rfl
@[simp] theorem beginOp_gridImage (s : State) (rest : List HostOp) : (beginOp s rest).gridImage = s.gridImage := rfl
@[simp] theorem beginOp_draws (s : State) (rest : List HostOp) : (beginOp s rest).draws = s.draws := rfl
@[simp] theorem beginOp_hostOps (s : State) (rest : List HostOp) : (beginOp s rest).hostOps = rest := rfl
@[simp] theorem beginOp_dout (s : State) (rest : List HostOp) : (beginOp s rest).dout = none := rfl
@[simp] theorem beginOp_decoding (s : State) (rest : List HostOp) : (beginOp s rest).Decoding ↔ s.Decoding := Iff.rfl

theorem beginOp_eq (s : State) (rest : List HostOp) : beginOp s rest = { s with hostOps := rest, dout := none } := rfl

end Sys2Proof.Machine
end

