-- ==== Sys2Proof/Laws/Exec.lean ====
section
/-! SUPPORT. What the decoder step and the reads can do: the lemmas later proofs cite instead of unfolding the
meanings. -/

namespace Sys2Proof.Machine

open Sys2Proof

@[simp] theorem zext8_toNat (q : Nybble) : (zext8 q).toNat = q.toNat := by
  have := q.isLt
  simp only [zext8, BitVec.toNat_setWidth]
  omega

theorem lowHalf_toNat {v : Byte} (h : v.toNat < 16) : (lowHalf v).toNat = v.toNat := by
  simp only [lowHalf, BitVec.toNat_setWidth]
  omega

theorem zext8_lowHalf {v : Byte} (h : v.toNat < 16) : zext8 (lowHalf v) = v :=
  BitVec.eq_of_toNat_eq (by rw [zext8_toNat, lowHalf_toNat h])

/-! ### Which symbol the decoder step chooses -/

theorem decodeNybble_invalid {s : State} {v : Byte} (h : 16 ≤ v.toNat) :
    decodeNybble v s = execInvalid s.runPending v s := if_pos h

theorem decodeNybble_run15 {s : State} {v : Byte} (hp : s.runPending = true) (h : v.toNat = 15) :
    decodeNybble v s = execRun15 s := by
  rw [decodeNybble, if_neg (by rw [h]; decide), if_pos hp, if_pos h]

theorem decodeNybble_run {s : State} {v : Byte} (hp : s.runPending = true) (h : v.toNat ≤ 14) :
    decodeNybble v s = execRun (lowHalf v) s := by
  rw [decodeNybble, if_neg (by simp only [nybLimit]; omega), if_pos hp, if_neg (by omega)]

theorem decodeNybble_esc {s : State} {v : Byte} (hp : s.runPending = false) (h : v.toNat = 15) :
    decodeNybble v s = execEsc s := by
  rw [decodeNybble, if_neg (by rw [h]; decide), if_neg (by simp [hp]), if_pos h]

theorem decodeNybble_lit {s : State} {v : Byte} (hp : s.runPending = false) (h : v.toNat ≤ 14) :
    decodeNybble v s = execLit (lowHalf v) s := by
  rw [decodeNybble, if_neg (by simp only [nybLimit]; omega), if_neg (by simp [hp]), if_neg (by omega)]

/-- Every operand meets exactly one row of the decode table (30_encoding.md R54). -/
theorem operand_cases (p : Bool) (v : Byte) :
    16 ≤ v.toNat ∨ (p = true ∧ v.toNat = 15) ∨ (p = true ∧ v.toNat ≤ 14) ∨ (p = false ∧ v.toNat = 15) ∨
      (p = false ∧ v.toNat ≤ 14) := by
  cases p <;> simp <;> omega

/-! ### The decoder step as a whole -/

/-- The decoder step on an operand it admits completes, and leaves what the operand's row says. -/
theorem decodeNybble_outcome {s : State} (hs : s.Decoding) (hc : s.cursor.toNat ≤ 180) (v : Byte) :
    ∃ t, decodeNybble v s = .next t ∧ DecodeOutcome v s t := by
  unfold DecodeOutcome
  obtain h | ⟨hp, h⟩ | ⟨hp, h⟩ | ⟨hp, h⟩ | ⟨hp, h⟩ := operand_cases s.runPending v
  · rw [decodeNybble_invalid h, execInvalid, admitSymbol_decoding hs (decide_eq_true h)]
    exact ⟨_, rfl, by rw [if_pos h]; rfl⟩
  · rw [decodeNybble_run15 hp h, execRun15, admitSymbol_decoding hs hp]
    refine ⟨_, rfl, ?_⟩
    rw [if_neg (by omega), if_neg (by simp [hp]), if_pos h]
    exact escapeInRun_outcome _ s
  · have hv : (lowHalf v).toNat = v.toNat := lowHalf_toNat (by omega)
    rw [decodeNybble_run hp h, execRun, admitSymbol_decoding hs (by simp [hp, hv, codeMax, h])]
    refine ⟨_, rfl, ?_⟩
    rw [if_neg (by omega), if_neg (by simp [hp]), if_neg (by omega), runLength, hv]
    exact runOfZeros_outcome _ s
  · rw [decodeNybble_esc hp h, execEsc, admitSymbol_decoding hs (by simp [hp])]
    exact ⟨_, rfl, by rw [if_neg (by omega), if_pos hp, if_pos h]; rfl⟩
  · have hv : (lowHalf v).toNat = v.toNat := lowHalf_toNat (by omega)
    rw [decodeNybble_lit hp h, execLit, admitSymbol_decoding hs (by simp [hp, hv, codeMax, h]),
      if_pos (by simp only [nLin]; omega), zext8_lowHalf (by omega)]
    refine ⟨_, rfl, ?_⟩
    rw [if_neg (by omega), if_pos hp, if_neg (by omega)]
    exact literalWrite_outcome (by simp only [nLin]; omega) hp v

/-- The decoder step on an operand it admits is never a refusal. -/
theorem decodeNybble_ne_refused {s : State} (hs : s.Decoding) (v : Byte) (r : Refusal) :
    decodeNybble v s ≠ .refused r := by
  obtain h | ⟨hp, h⟩ | ⟨hp, h⟩ | ⟨hp, h⟩ | ⟨hp, h⟩ := operand_cases s.runPending v
  · rw [decodeNybble_invalid h, execInvalid, admitSymbol_decoding hs (decide_eq_true h)]
    simp
  · rw [decodeNybble_run15 hp h, execRun15, admitSymbol_decoding hs hp]
    simp
  · have hv : (lowHalf v).toNat = v.toNat := lowHalf_toNat (by omega)
    rw [decodeNybble_run hp h, execRun, admitSymbol_decoding hs (by simp [hp, hv, codeMax, h])]
    simp
  · rw [decodeNybble_esc hp h, execEsc, admitSymbol_decoding hs (by simp [hp])]
    simp
  · have hv : (lowHalf v).toNat = v.toNat := lowHalf_toNat (by omega)
    rw [decodeNybble_lit hp h, execLit, admitSymbol_decoding hs (by simp [hp, hv, codeMax, h])]
    split <;> simp

/-! ### What a next state of NYB can be -/

/-- A write of `n` cells of value `b` that operand `v` may ask for: codes in range, inside the buffer, one cell for a
literal, a run only where one is pending. -/
structure WriteFits (n : Nat) (b v : Byte) (s : State) : Prop where
  /-- At least one cell. -/
  pos : 1 ≤ n
  /-- A raw pixel code. -/
  code : b.toNat ≤ 14
  /-- One literal cell, or a pending run. -/
  mode : (s.runPending = false ∧ n = 1 ∧ v.toNat ≤ 14) ∨ s.runPending = true
  /-- Inside the buffer. -/
  fits : s.cursor.toNat + n ≤ 181

/-- The three things an admitted operand can do: only the status becomes ERROR, a run is armed, or cells are
written. -/
def NybbleEffect (v : Byte) (s t : State) : Prop :=
  t = { s with status := .error } ∨
  (v.toNat = 15 ∧ s.runPending = false ∧ t = { s with runPending := true, status := .inProgress }) ∨
  ∃ n b, WriteFits n b v s ∧ CellsWritten n b s t

theorem RunOutcome.effect {n : Nat} {v : Byte} {s t : State} (hn : 1 ≤ n) (hp : s.runPending = true)
    (h : RunOutcome n s t) : NybbleEffect v s t := by
  unfold RunOutcome at h
  split at h
  · exact .inl h
  · exact .inr (.inr ⟨n, 0, ⟨hn, by decide, .inr hp, by omega⟩, h⟩)

theorem EscapeInRunOutcome.effect {p : EscInRun} {v : Byte} {s t : State} (hp : s.runPending = true)
    (h : EscapeInRunOutcome p s t) : NybbleEffect v s t := by
  cases p with
  | run18 => exact RunOutcome.effect (by decide) hp h
  | error => exact .inl h

/-- If the decoder step answers a next state from a status that decodes, it did one of the three things. -/
theorem decodeNybble_eq_next {s t : State} {v : Byte} (hs : s.Decoding) (e : decodeNybble v s = .next t) :
    NybbleEffect v s t := by
  obtain h | ⟨hp, h⟩ | ⟨hp, h⟩ | ⟨hp, h⟩ | ⟨hp, h⟩ := operand_cases s.runPending v
  · rw [decodeNybble_invalid h, execInvalid, admitSymbol_decoding hs (decide_eq_true h)] at e
    cases e
    exact .inl rfl
  · rw [decodeNybble_run15 hp h, execRun15, admitSymbol_decoding hs hp] at e
    cases e
    exact (escapeInRun_outcome _ s).effect hp
  · have hv : (lowHalf v).toNat = v.toNat := lowHalf_toNat (by omega)
    rw [decodeNybble_run hp h, execRun, admitSymbol_decoding hs (by simp [hp, hv, codeMax, h])] at e
    cases e
    exact (runOfZeros_outcome _ s).effect (by simp only [runLength, runBias]; omega) hp
  · rw [decodeNybble_esc hp h, execEsc, admitSymbol_decoding hs (by simp [hp])] at e
    cases e
    exact .inr (.inl ⟨h, hp, rfl⟩)
  · have hv : (lowHalf v).toNat = v.toNat := lowHalf_toNat (by omega)
    rw [decodeNybble_lit hp h, execLit, admitSymbol_decoding hs (by simp [hp, hv, codeMax, h]),
      zext8_lowHalf (by omega)] at e
    split at e
    · next hc =>
      cases e
      exact .inr (.inr ⟨1, v, ⟨by decide, h, .inl ⟨hp, rfl, h⟩, by simp only [nLin] at hc; omega⟩,
        literalWrite_outcome hc hp v⟩)
    · cases e

/-- If NYB answers a next state, the nybble was discarded in a terminal status or had its effect. -/
theorem execNyb_eq_next {s t : State} {v : Byte} (e : execNyb v s = .next t) :
    (s.status.terminal = true ∧ t = s) ∨ (s.Decoding ∧ NybbleEffect v s t) := by
  unfold execNyb at e
  split at e
  · next ht => cases e; exact .inl ⟨ht, rfl⟩
  · next ht =>
    have hs := Status.terminal_eq_false.1 (Bool.eq_false_iff.2 ht)
    exact .inr ⟨hs, decodeNybble_eq_next hs e⟩

/-- If BYTE answers a next state, both halves did, in order. -/
theorem execByte_eq_next {s t : State} {b : Byte} (e : execByte b s = .next t) :
    ∃ m, execNyb (zext8 (lowNybble b)) s = .next m ∧ execNyb (zext8 (highNybble b)) m = .next t :=
  andThen_eq_next.1 e

/-! ### What a next state of a read can be -/

/-- RDPIX always answers a next state, which differs at most in the output and the draw count. -/
theorem execRdpix_next (g : Byte) (s : State) : ∃ d n, execRdpix g s = .next { s with dout := d, draws := n } := by
  unfold execRdpix
  split
  · split <;> exact ⟨_, _, rfl⟩
  · exact ⟨_, _, rfl⟩

/-- RDLIN always answers a next state, which differs at most in the output and the draw count. -/
theorem execRdlin_next (i : Byte) (s : State) : ∃ d n, execRdlin i s = .next { s with dout := d, draws := n } := by
  unfold execRdlin
  split <;> exact ⟨_, _, rfl⟩

/-! ### The canonical form of the linear buffer -/

theorem linearWf_runOfZeros {n : Nat} {s : State} (h : linearWf s.linearBuffer) :
    linearWf (runOfZeros n s).linearBuffer := by
  unfold runOfZeros
  split
  · exact h
  · rw [completionCheck_linearBuffer]
    exact linearWf_writeZeros h (by omega)

/-- Every next state of NYB keeps the canonical form of the linear buffer. -/
theorem execNyb_linearWf {s t : State} {v : Byte} (h : linearWf s.linearBuffer) (e : execNyb v s = .next t) :
    linearWf t.linearBuffer := by
  unfold execNyb at e
  split at e
  · cases e; exact h
  · obtain hv | ⟨hp, hv⟩ | ⟨hp, hv⟩ | ⟨hp, hv⟩ | ⟨hp, hv⟩ := operand_cases s.runPending v
    · rw [decodeNybble_invalid hv] at e
      obtain ⟨_, rfl⟩ | ⟨_, _, e⟩ := admitSymbol_eq_next e
      · exact h
      · cases e; exact h
    · rw [decodeNybble_run15 hp hv] at e
      obtain ⟨_, rfl⟩ | ⟨_, _, e⟩ := admitSymbol_eq_next e
      · exact h
      · cases e
        unfold escapeInRun
        split
        · exact linearWf_runOfZeros h
        · exact h
    · rw [decodeNybble_run hp hv] at e
      obtain ⟨_, rfl⟩ | ⟨_, _, e⟩ := admitSymbol_eq_next e
      · exact h
      · cases e; exact linearWf_runOfZeros h
    · rw [decodeNybble_esc hp hv] at e
      obtain ⟨_, rfl⟩ | ⟨_, _, e⟩ := admitSymbol_eq_next e
      · exact h
      · cases e; exact h
    · rw [decodeNybble_lit hp hv] at e
      obtain ⟨_, rfl⟩ | ⟨_, _, e⟩ := admitSymbol_eq_next e
      · exact h
      · split at e
        · next hc =>
          cases e
          rw [completionCheck_linearBuffer]
          exact linearWf_writeLinear h hc _
        · cases e

end Sys2Proof.Machine
end

