-- ==== Sys2Proof/Laws/PerInstr.lean ====
section
/-! SUPPORT. Per-instruction families about instructions as syntax. HitsItsRow: the word the encoder gives a
well-formed instruction is met by that instruction's own row of the opcode table and by no row before it. -/

namespace Sys2Proof.Laws.HitsItsRow

open Sys2Proof

/-- The first row of the instruction's table that its encoded word meets is the instruction's own row
(30_encoding.md R54, R58: match and mask, first match wins). -/
def Statement (i : Instr) : Prop := i.wf = true → (encode i).map firstRow = i.rowIndex

theorem esc : Statement .esc := by unfold Statement; decide
theorem run15 : Statement .run15 := by unfold Statement; decide
theorem lit (v : Nybble) : Statement (.lit v) := by unfold Statement; revert v; decide
theorem run (x : Nybble) : Statement (.run x) := by unfold Statement; revert x; decide
theorem invalid (pending : Bool) (v : Byte) : Statement (.invalid pending v) := by
  unfold Statement; revert pending v; decide
theorem nyb (v : Byte) : Statement (.nyb v) := by unfold Statement; revert v; decide
theorem byte (b : Byte) : Statement (.byte b) := by unfold Statement; revert b; decide
theorem rst (din : Byte) : Statement (.rst din) := by unfold Statement; revert din; decide
theorem rdpix (g : Byte) : Statement (.rdpix g) := by unfold Statement; revert g; decide
theorem rdlin (i : Byte) : Statement (.rdlin i) := by unfold Statement; revert i; decide
theorem reserved5 (din : Byte) : Statement (.reserved5 din) := by unfold Statement; revert din; decide
theorem reserved6 (din : Byte) : Statement (.reserved6 din) := by unfold Statement; revert din; decide
theorem reserved7 (din : Byte) : Statement (.reserved7 din) := by unfold Statement; revert din; decide
theorem assemble : Statement .assemble := by unfold Statement; decide

end Sys2Proof.Laws.HitsItsRow
end

