-- ==== Sys2Proof/Laws/Step.lean ====
section
/-! SUPPORT. What one step can do, said once: the lemma every proof about the step cites. -/

namespace Sys2Proof.Machine

open Sys2Proof

/-- The command word a host operation is read from, by its op field. -/
theorem decodeCommand_cases (w : CommandWord) : ∃ d,
    decodeCommand w = .nyb d ∨ decodeCommand w = .byte d ∨ (w.toNat / 256 = 2 ∧ decodeCommand w = .rst d) ∨
    decodeCommand w = .rdpix d ∨ decodeCommand w = .rdlin d ∨
    (5 ≤ w.toNat / 256 ∧
      (decodeCommand w = .reserved5 d ∨ decodeCommand w = .reserved6 d ∨ decodeCommand w = .reserved7 d)) := by
  refine ⟨w.setWidth 8, ?_⟩
  have hlt : w.toNat / 256 < 8 := by have := w.isLt; omega
  unfold decodeCommand
  interval_cases w.toNat / 256 <;> simp

/-- What one step answers when it answers a next state: nothing was issued and nothing changed; or the operation was
a nybble, a byte, a reset, or a read that changed at most the output and the draw count. -/
theorem step_eq_next {s t : State} (e : step s = .next t) :
    (s.hostOps = [] ∧ t = s) ∨ ∃ op rest, s.hostOps = op :: rest ∧
      ((∃ v, op.isReset = false ∧ execNyb v (beginOp s rest) = .next t) ∨
       (∃ b, op.isReset = false ∧ execByte b (beginOp s rest) = .next t) ∨
       (op.isReset = true ∧ t = resetBlock (beginOp s rest)) ∨
       (op.isReset = false ∧ ∃ d n, t = { s with hostOps := rest, dout := d, draws := n })) := by
  unfold step at e
  split at e
  · next h => cases e; exact .inl ⟨h, rfl⟩
  · next op rest h =>
    refine .inr ⟨op, rest, h, ?_⟩
    cases op with
    | rstInput => cases e; exact .inr (.inr (.inl ⟨rfl, rfl⟩))
    | command w =>
      have hlt : w.toNat / 256 < 8 := by have := w.isLt; omega
      simp only [HostOp.instr, HostOp.isReset] at e ⊢
      unfold decodeCommand at e
      interval_cases w.toNat / 256
      · exact .inl ⟨_, rfl, e⟩
      · exact .inr (.inl ⟨_, rfl, e⟩)
      · cases e; exact .inr (.inr (.inl ⟨rfl, rfl⟩))
      · obtain ⟨d, n, h⟩ := execRdpix_next (w.setWidth 8) (beginOp s rest)
        cases h.symm.trans e
        exact .inr (.inr (.inr ⟨rfl, d, n, rfl⟩))
      · obtain ⟨d, n, h⟩ := execRdlin_next (w.setWidth 8) (beginOp s rest)
        cases h.symm.trans e
        exact .inr (.inr (.inr ⟨rfl, d, n, rfl⟩))
      all_goals cases e

end Sys2Proof.Machine
end

