-- ==== Sys2Proof/Tests/Slice0.lean ====
section
/-! SUPPORT. Tests of single operations on small states, with results from 95_test_vectors.md, and a witness for the
hypotheses of every obligation that has any. -/

namespace Sys2Proof.Machine.Tests

open Sys2Proof Sys2Proof.Machine

/-! ### Helpers -/

/-- A state given as 95_test_vectors.md gives it: (status, run_pending, cursor). -/
def at3 (st : Status) (p : Bool) (c : Byte) : State :=
  { State.reset with status := st, runPending := p, cursor := c }

/-- A completed image whose linear cell 0 holds 7. -/
def sevenFirst : State :=
  { at3 .complete false 181 with linearBuffer := [(0, 7)], gridImage := assembleGrid [(0, 7)] }

/-- A state with one operation to come. -/
def issued (s : State) (op : HostOp) : State := { s with hostOps := [op] }

/-- A number read from the next state an operation answers, if it answers one. -/
def read (o : Host.Outcome State Fault Refusal) (f : State → Nat) : Option Nat :=
  match o with
  | .next s => some (f s)
  | .fault _ => none
  | .refused _ => none

/-- STAT as a number. -/
def statOf (s : State) : Nat := s.stat.toNat

/-- The linear cell at an index, as a number. -/
def lin (i : Nat) (s : State) : Nat := (readLinear s.linearBuffer i).toNat

/-- The grid cell at an index as a number, 256 where it is unspecified. -/
def pix (g : Nat) (s : State) : Nat :=
  match readGrid s.gridImage g with
  | some b => b.toNat
  | none => 256

/-- The output byte as a number, 256 where there is none. -/
def outOf (s : State) : Nat :=
  match s.dout with
  | some b => b.toNat
  | none => 256

/-! ### WellFormed: one ill-formed term for each check -/

theorem test_wf_refuses_lit_15 : Instr.wf (.lit 15) = false := by decide
theorem test_wf_refuses_run_15 : Instr.wf (.run 15) = false := by decide
theorem test_wf_refuses_invalid_15 : Instr.wf (.invalid false 15) = false := by decide

/-! ### Words written out from 30_encoding.md R54 and R58 -/

theorem test_decode_esc : decodeSymbol 0b000001111 = .esc := by decide
theorem test_decode_run15 : decodeSymbol 0b100001111 = .run15 := by decide
theorem test_decode_lit : decodeSymbol 0b000001110 = .lit 14 := by decide
theorem test_decode_run : decodeSymbol 0b100000000 = .run 0 := by decide
theorem test_decode_invalid : decodeSymbol 0b111111111 = .invalid true 255 := by decide
theorem test_decode_nyb : decodeCommand 0b00000010000 = .nyb 16 := by decide
theorem test_decode_byte : decodeCommand 0b00110001111 = .byte 0x8F := by decide
theorem test_decode_rst : decodeCommand 0b01011111111 = .rst 255 := by decide
theorem test_decode_rdpix : decodeCommand 0b01100000011 = .rdpix 3 := by decide
theorem test_decode_rdlin : decodeCommand 0b10000001001 = .rdlin 9 := by decide
theorem test_decode_reserved5 : decodeCommand 0b10100000000 = .reserved5 0 := by decide
theorem test_decode_reserved6 : decodeCommand 0b11000000000 = .reserved6 0 := by decide
theorem test_decode_reserved7 : decodeCommand 0b11111111111 = .reserved7 255 := by decide

/-- The table's words by width: 9 bits in the stream's space, 11 in the port's, and no number that does not fit. -/
theorem test_table_words : decodeTableWord 9 0x10F = some .run15 ∧ decodeTableWord 11 0x10F = some (.byte 0x0F) ∧
    decodeTableWord 16 0x3C2 = some (.rdpix 194) ∧ decodeTableWord 9 0x200 = none := by decide

/-! ### LIT, ESC, RUN -/

/-- V-LIT-3. -/
theorem test_lit_writes : read (exec (.lit 9) (at3 .inProgress false 4)) statOf = some 0x205 ∧
    read (exec (.lit 9) (at3 .inProgress false 4)) (lin 4) = some 9 := by decide

/-- V-LIT-4. -/
theorem test_lit_completes : read (exec (.lit 3) (at3 .inProgress false 180)) statOf = some 0x4B5 ∧
    read (exec (.lit 3) (at3 .inProgress false 180)) (pix 194) = some 55 := by decide

/-- V-ESC-1. -/
theorem test_esc_from_reset : read (exec .esc State.reset) statOf = some 0x300 := by decide

/-- V-ESC-4. -/
theorem test_esc_at_180 : read (exec .esc (at3 .inProgress false 180)) statOf = some 0x3B4 := by decide

/-- V-RUN-4. -/
theorem test_run_completes : read (exec (.run 0) (at3 .inProgress true 178)) statOf = some 0x4B5 := by decide

/-- V-RUN-7. -/
theorem test_run_overflows : read (exec (.run 9) (at3 .inProgress true 170)) statOf = some 0x7AA := by decide

/-! ### RUN15 and INVALID -/

/-- V-R15-1 to V-R15-4 under RUN18. -/
theorem test_escape_in_run_run18 : statOf (escapeInRun .run18 (at3 .inProgress true 0)) = 0x212 ∧
    statOf (escapeInRun .run18 (at3 .inProgress true 163)) = 0x4B5 ∧
    statOf (escapeInRun .run18 (at3 .inProgress true 164)) = 0x7A4 := by decide

/-- V-R15-1 to V-R15-4 under ERROR. -/
theorem test_escape_in_run_error : statOf (escapeInRun .error (at3 .inProgress true 0)) = 0x700 ∧
    statOf (escapeInRun .error (at3 .inProgress true 163)) = 0x7A3 ∧
    statOf (escapeInRun .error (at3 .inProgress true 164)) = 0x7A4 := by decide

/-- V-INV-1. -/
theorem test_invalid_from_reset : read (exec (.invalid false 16) State.reset) statOf = some 0x600 := by decide

/-- V-INV-4. -/
theorem test_invalid_keeps_pending : read (exec (.invalid true 16) (at3 .inProgress true 1)) statOf = some 0x701 := by
  decide

/-! ### NYB, BYTE, RST -/

/-- V-INV-4, through NYB. -/
theorem test_nyb_tests_16_first : read (exec (.nyb 16) (at3 .inProgress true 1)) statOf = some 0x701 := by decide

/-- V-TRM-3. -/
theorem test_nyb_discarded : read (exec (.nyb 16) (at3 .complete false 181)) statOf = some 0x4B5 := by decide

/-- V-BYT-1: low nybble first. -/
theorem test_byte_low_first : read (exec (.byte 0x21) State.reset) (lin 0) = some 1 ∧
    read (exec (.byte 0x21) State.reset) (lin 1) = some 2 := by decide

/-- V-BYT-6: the low nybble completes, the high nybble is discarded. -/
theorem test_byte_high_discarded : read (exec (.byte 0xA7) (at3 .inProgress false 180)) statOf = some 0x4B5 ∧
    read (exec (.byte 0xA7) (at3 .inProgress false 180)) (pix 194) = some 128 := by decide

/-- V-RST-3. -/
theorem test_rst_mid_image : read (exec (.rst 0) { at3 .inProgress true 50 with linearBuffer := [(3, 9)] }) statOf = some 0 ∧
    read (exec (.rst 0) { at3 .inProgress true 50 with linearBuffer := [(3, 9)] }) (lin 3) = some 0 := by decide

/-- V-RST-2: the image becomes unspecified. -/
theorem test_rst_ends_the_image : read (exec (.rst 255) sevenFirst) (pix 3) = some 256 := by decide

/-! ### The reads, ASSEMBLE, the reserved operations, the step -/

/-- 42_host_operations.md R104, its example. -/
theorem test_rdpix_example : read (exec (.rdpix 3) sevenFirst) outOf = some 128 ∧
    read (exec (.rdpix 0) sevenFirst) outOf = some 0 := by decide

/-- V-RD-2 and V-RD-3: a free byte is drawn, and the status does not change. -/
theorem test_rdpix_draws : read (exec (.rdpix 195) sevenFirst) State.draws = some 1 ∧
    read (exec (.rdpix 3) (at3 .inProgress false 5)) State.draws = some 1 ∧
    read (exec (.rdpix 195) sevenFirst) statOf = some 0x4B5 := by decide

/-- V-RD-4. -/
theorem test_rdlin_cells : read (exec (.rdlin 0) { at3 .inProgress false 1 with linearBuffer := [(0, 9)] }) outOf = some 9 ∧
    read (exec (.rdlin 180) { at3 .inProgress false 1 with linearBuffer := [(0, 9)] }) outOf = some 0 := by decide

/-- V-RD-5. -/
theorem test_rdlin_draws : read (exec (.rdlin 181) State.reset) State.draws = some 1 := by decide

/-- 41_image_assembly.md R95, its example. -/
theorem test_assemble_example :
    read (exec .assemble { State.reset with linearBuffer := [(0, 7), (9, 1), (180, 14)] }) (pix 3) = some 128 ∧
    read (exec .assemble { State.reset with linearBuffer := [(0, 7), (9, 1), (180, 14)] }) (pix 17) = some 18 ∧
    read (exec .assemble { State.reset with linearBuffer := [(0, 7), (9, 1), (180, 14)] }) (pix 194) = some 255 := by
  decide

/-- V-ASM-3, one inactive cell of each narrowed row. -/
theorem test_assemble_inactive :
    read (exec .assemble { State.reset with linearBuffer := [(0, 7), (8, 7), (9, 7), (20, 7)] }) (pix 12) = some 0 ∧
    read (exec .assemble { State.reset with linearBuffer := [(0, 7), (8, 7), (9, 7), (20, 7)] }) (pix 16) = some 0 ∧
    read (exec .assemble { State.reset with linearBuffer := [(0, 7), (8, 7), (9, 7), (20, 7)] }) (pix 30) = some 0 ∧
    read (exec .assemble { State.reset with linearBuffer := [(0, 7), (8, 7), (9, 7), (20, 7)] }) (pix 59) = some 0 := by
  decide

/-- V-RD-7. -/
theorem test_reserved_refused : exec (.reserved5 0) State.reset = .refused .reservedOperation ∧
    exec (.reserved6 0) State.reset = .refused .reservedOperation ∧
    exec (.reserved7 0) State.reset = .refused .reservedOperation := ⟨rfl, rfl, rfl⟩

/-- V-BYT-2, as the first operation after reset. -/
theorem test_step_byte : read (step (State.reset.withFetchWord 11 0x1EF)) statOf = some 0x211 := by decide

/-- V-RUN-1, as a placed stream word. -/
theorem test_step_stream_word : read (step (State.reset.withFetchWord 9 0x100)) statOf = some 0x203 := by decide

/-- 70_reset_and_hazards.md R140: the reset input. -/
theorem test_step_reset_input : read (step (issued (at3 .error true 170) .rstInput)) statOf = some 0 := by decide

/-! ### States that meet the invariants -/

theorem sevenFirst_codes (i : Nat) : (readLinear [(0, 7)] i).toNat ≤ 14 := by
  simp only [readLinear, lookupCell]
  split <;> simp [linearUnlisted]

theorem sevenFirst_inv : sevenFirst.Inv where
  cursor_le := by decide
  linear_wf := by decide
  codes_le := sevenFirst_codes
  complete_iff := by decide
  begin_fresh := by decide
  complete_no_run := by decide
  grid_wf := gridWf_assembleGrid _
  complete_image := fun _ => rfl

/-- With no cell listed, a state that decodes meets the invariants at every cursor up to 180. -/
theorem at3_inv {p : Bool} {c : Byte} (h : c.toNat ≤ 180) : (at3 .inProgress p c).Inv where
  cursor_le := by show c.toNat ≤ 181; omega
  linear_wf := linearWf_nil
  codes_le := fun _ => by simp [at3, State.reset]
  complete_iff := ⟨fun h => by simp [at3] at h, fun h' => by simp only [at3] at h'; omega⟩
  begin_fresh := fun h => by simp [at3] at h
  complete_no_run := fun h => by simp [at3] at h
  grid_wf := gridWf_nil
  complete_image := fun h => by simp [at3] at h

/-- So does the same state with operations to come. -/
theorem issued_inv {s : State} (h : s.Inv) (op : HostOp) : (issued s op).Inv := { h with }

/-! ### A witness for the hypotheses of each obligation, clauses at their boundaries -/

theorem witness_DecodeOfEncodeIsTheInstruction :
    Instr.wf (.lit 14) = true ∧ Instr.lit 14 ≠ .assemble ∧ Instr.wf (.invalid true 16) = true ∧
      Instr.invalid true 16 ≠ .assemble := by decide

theorem witness_StepRunsTheDecodedInstruction : (issued State.reset (.command 0x1EF)).hostOps = .command 0x1EF :: [] := rfl

theorem witness_StepWithoutAnOperationChangesNothing : State.reset.hostOps = [] := rfl

theorem witness_LitWritesOneCell : ((at3 .inProgress false 180).Decoding ∧ (at3 .inProgress false 180).runPending = false ∧
      (at3 .inProgress false 180).cursor.toNat ≤ 180 ∧ (14 : Nybble).toNat ≤ 14) ∧
    (State.reset.Decoding ∧ State.reset.runPending = false ∧ State.reset.cursor.toNat ≤ 180) := by decide

theorem witness_LitOutsideTheBufferFaults : (at3 .inProgress false 181).Decoding ∧
    (at3 .inProgress false 181).runPending = false ∧ (0 : Nybble).toNat ≤ 14 ∧
    181 ≤ (at3 .inProgress false 181).cursor.toNat := by decide

theorem witness_EscArmsARun : State.reset.Decoding ∧ State.reset.runPending = false := by decide

/-- Cursors 170 with x = 8 and x = 9: the run that just fits, and the run that just does not. -/
theorem witness_RunWritesZerosOrRaisesError : (at3 .inProgress true 170).Decoding ∧
    (at3 .inProgress true 170).runPending = true ∧ (8 : Nybble).toNat ≤ 14 ∧ (9 : Nybble).toNat ≤ 14 ∧
    (at3 .inProgress true 170).cursor.toNat + ((8 : Nybble).toNat + 3) = 181 ∧
    181 < (at3 .inProgress true 170).cursor.toNat + ((9 : Nybble).toNat + 3) := by decide

/-- Cursors 163 and 164: the run of 18 that just fits, and the run that just does not. -/
theorem witness_Run15FollowsTheParameter : ((at3 .inProgress true 163).Decoding ∧
      (at3 .inProgress true 163).runPending = true) ∧
    (at3 .inProgress true 164).Decoding ∧ (at3 .inProgress true 164).runPending = true := by decide

theorem witness_InvalidOperandOnlySetsError : State.reset.Decoding ∧ 16 ≤ (16 : Byte).toNat ∧ 16 ≤ (255 : Byte).toNat := by
  decide

theorem witness_SymbolsOutsideTheirRowAreRefused : ((at3 .inProgress true 0).Decoding ∧
      (at3 .inProgress true 0).runPending = true) ∧
    ((at3 .inProgress false 0).Decoding ∧ (at3 .inProgress false 0).runPending = false) ∧ (15 : Byte).toNat ≤ 15 := by
  decide

theorem witness_TerminalStatusDiscardsNybbles : (sevenFirst.status = .complete ∨ sevenFirst.status = .error) ∧
    ((at3 .error true 170).status = .complete ∨ (at3 .error true 170).status = .error) := by decide

theorem witness_NybChoosesTheSymbol : (at3 .begin false 0).Decoding ∧ (at3 .inProgress true 0).Decoding := by decide

theorem witness_NybDecodesItsOperand : ((at3 .inProgress false 180).Decoding ∧
      (at3 .inProgress false 180).cursor.toNat ≤ 180) ∧
    (at3 .inProgress true 0).Decoding ∧ (at3 .inProgress true 0).cursor.toNat ≤ 180 := by decide

theorem witness_ByteIsLowThenHighNybble : (at3 .inProgress false 180).Inv ∧ sevenFirst.Inv :=
  ⟨at3_inv (by decide), sevenFirst_inv⟩

/-- An operand that ends in ERROR and one that arms a run. -/
theorem witness_RunPendingTracksTheEscape :
    ((at3 .inProgress true 1).Decoding ∧ exec (.nyb 16) (at3 .inProgress true 1) = .next (at3 .error true 1)) ∧
    (at3 .inProgress false 20).Decoding ∧
      exec (.nyb 15) (at3 .inProgress false 20) = .next (at3 .inProgress true 20) :=
  ⟨⟨by decide, rfl⟩, by decide, rfl⟩

theorem witness_StatusAfterANybble : (at3 .inProgress false 180).Inv ∧ (at3 .inProgress false 180).Decoding :=
  ⟨at3_inv (by decide), by decide⟩

/-- NYB of an invalid operand, BYTE whose high half is a run that overflows, and BYTE whose low half is one. -/
theorem witness_EnteringErrorChangesOnlyTheStatus :
    ((at3 .inProgress false 7).status ≠ .error ∧
      exec (.nyb 16) (at3 .inProgress false 7) = .next (at3 .error false 7)) ∧
    ((at3 .inProgress false 170).status ≠ .error ∧
      exec (.byte 0x9F) (at3 .inProgress false 170) = .next (at3 .error true 170)) ∧
    (at3 .inProgress true 170).status ≠ .error ∧
      exec (.byte 0x29) (at3 .inProgress true 170) = .next (at3 .error true 170) :=
  ⟨⟨by decide, rfl⟩, ⟨by decide, rfl⟩, by decide, rfl⟩

theorem witness_ErrorHasExactlyItsCauses : (at3 .inProgress true 179).Decoding ∧
    (at3 .inProgress true 179).cursor.toNat ≤ 180 ∧ (Instr.rdlin 0) ∈ [.rst 0, .rdpix 0, .rdlin 0, .assemble] := by
  decide

theorem witness_RdpixReturnsTheImage : sevenFirst.Inv ∧ sevenFirst.status = .complete := ⟨sevenFirst_inv, rfl⟩

theorem witness_RdpixElsewhereReturnsAFreeByte :
    ((at3 .error true 0).status ≠ .complete ∨ 195 ≤ (194 : Byte).toNat) ∧
    (sevenFirst.status ≠ .complete ∨ 195 ≤ (195 : Byte).toNat) := by decide

theorem witness_AssembleBuildsTheGrid :
    ∀ i, i ≤ 180 → (readLinear sevenFirst.linearBuffer i).toNat ≤ 14 := fun i _ => sevenFirst_codes i

theorem witness_GrayscaleTableIsThePrintedOne : (14 : Byte).toNat ≤ 14 ∧ (0 : Byte).toNat ≤ 14 := by decide

theorem witness_GrayscaleClosedForm : (14 : Byte).toNat ≤ 14 ∧ (7 : Byte).toNat ≤ 14 := by decide

theorem witness_CompletedPixelsAreTableValues : sevenFirst.Inv ∧ sevenFirst.status = .complete := ⟨sevenFirst_inv, rfl⟩

/-- A step that decodes and a reset of a completed image. -/
theorem witness_StepKeepsTheInvariants :
    ((issued (at3 .inProgress false 4) (.command 0x00F)).Inv ∧
      step (issued (at3 .inProgress false 4) (.command 0x00F)) = .next (at3 .inProgress true 4)) ∧
    (issued sevenFirst .rstInput).Inv ∧ step (issued sevenFirst .rstInput) = .next State.reset :=
  ⟨⟨issued_inv (at3_inv (by decide)) _, rfl⟩, issued_inv sevenFirst_inv _, rfl⟩

theorem witness_StepKeepsUndecodedCellsZero : (issued (at3 .inProgress false 4) (.command 0x00F)).TailZero ∧
    step (issued (at3 .inProgress false 4) (.command 0x00F)) = .next (at3 .inProgress true 4) :=
  ⟨fun _ _ => rfl, rfl⟩

/-- One state whose operation runs and one whose operation is reserved. -/
theorem witness_StepsStopOnlyOnReservedOperations : (issued (at3 .inProgress false 4) (.command 0x00F)).Inv ∧
    (issued (at3 .inProgress false 4) (.command 0x500)).Inv :=
  ⟨issued_inv (at3_inv (by decide)) _, issued_inv (at3_inv (by decide)) _⟩

/-- A nybble discarded in ERROR, an escape, and the two resets. -/
theorem witness_ResetIsTheOnlyWayBack :
    ((HostOp.command 0x002).isReset = false ∧
      step (issued (at3 .error true 1) (.command 0x002)) = .next (at3 .error true 1)) ∧
    ((HostOp.command 0x00F).isReset = false ∧
      step (issued (at3 .inProgress false 4) (.command 0x00F)) = .next (at3 .inProgress true 4)) ∧
    (HostOp.command 0x200).isReset = true ∧ HostOp.rstInput.isReset = true :=
  ⟨⟨by decide, rfl⟩, ⟨by decide, rfl⟩, by decide, by decide⟩

/-- A step that completes the image and a step that leaves it. -/
theorem witness_GridChangesOnlyAtCompletion :
    ((HostOp.command 0x003).isReset = false ∧
      ∃ t, step (issued (at3 .inProgress false 180) (.command 0x003)) = .next t) ∧
    (HostOp.command 0x00F).isReset = false ∧
      step (issued (at3 .inProgress false 4) (.command 0x00F)) = .next (at3 .inProgress true 4) :=
  ⟨⟨by decide, _, rfl⟩, by decide, rfl⟩

/-- Two states that differ in linear cell 4, which the literal issued next overwrites. -/
theorem witness_ImageIndependentOfUndecodedCells :
    AgreeBelowCursor (issued (at3 .inProgress false 4) (.command 0x009))
      (issued { at3 .inProgress false 4 with linearBuffer := [(4, 7)] } (.command 0x009)) ∧
    ∀ i rest, (issued (at3 .inProgress false 4) (.command 0x009)).hostOps = .command (commandWord 4 i) :: rest →
      i.toNat < (issued (at3 .inProgress false 4) (.command 0x009)).cursor.toNat ∨ 181 ≤ i.toNat := by
  refine ⟨⟨rfl, rfl, rfl, fun i hi => ?_, rfl, rfl, rfl, rfl⟩, fun i rest h => ?_⟩
  · have h4 : (4 : Nat) ≠ i := by
      have : i < 4 := hi
      omega
    show readLinear [] i = readLinear [(4, 7)] i
    simp [readLinear, lookupCell, h4]
  · have : ∀ i : Byte, (0x009 : CommandWord) ≠ commandWord 4 i := by decide
    simp only [issued, List.cons.injEq, HostOp.command.injEq] at h
    exact absurd h.1 (this i)

/-- From cursor 160: a literal, a run of 17 and a run of 3, which fill the buffer to its last cell. -/
theorem witness_LegalSpellingDecodesToItsCodes :
    [Spelling.literal 14, .zeros 17, .zeros 3] ≠ [] ∧
    (∀ w ∈ [Spelling.literal 14, .zeros 17, .zeros 3], w.legal = true) ∧ (at3 .inProgress false 160).Decoding ∧
    (at3 .inProgress false 160).runPending = false ∧
    (at3 .inProgress false 160).cursor.toNat +
      ([Spelling.literal 14, .zeros 17, .zeros 3].flatMap Spelling.codes).length ≤ 181 := by decide

theorem witness_ReferenceEncoderRoundTrip : (List.replicate 181 (14 : Nybble)).length = 181 ∧
    (∀ c ∈ List.replicate 181 (14 : Nybble), c.toNat ≤ 14) ∧ State.reset.Decoding ∧
    State.reset.runPending = false ∧ State.reset.cursor = 0 :=
  ⟨List.length_replicate, fun c hc => by rw [List.eq_of_mem_replicate hc]; decide, by decide, rfl, rfl⟩

theorem witness_EncodedStreamLengthBounds : (List.replicate 181 (0 : Nybble)).length = 181 := List.length_replicate

end Sys2Proof.Machine.Tests
end

