-- ==== Sys2Proof/Proofs/State.lean ====
section
/-! SUPPORT. Proofs about the state (10_state.md): the status word, and what only a reset takes back. -/

namespace Sys2Proof.Machine

open Sys2Proof

/-! ### The status word -/

/-- A concatenation of bit fields, as arithmetic. -/
theorem toNat_append_eq_add {m n : Nat} (x : BitVec m) (y : BitVec n) :
    (x ++ y).toNat = x.toNat * 2 ^ n + y.toNat := by
  rw [BitVec.toNat_append, ← Nat.shiftLeft_add_eq_or_of_lt y.isLt, Nat.shiftLeft_eq]

/-- The packaging of 10_state.md R16 as arithmetic. -/
theorem State.stat_toNat (s : State) :
    s.stat.toNat = s.status.code.toNat * 512 + s.runPending.toNat * 256 + s.cursor.toNat := by
  rw [State.stat, toNat_append_eq_add, toNat_append_eq_add, BitVec.toNat_ofBool]
  omega

/-- The top field of the status word is the status code: run_pending and the cursor stay below bit 9. -/
theorem State.stat_toNat_div (s : State) : s.stat.toNat / 512 = s.status.code.toNat := by
  have hp : s.runPending.toNat ≤ 1 := s.runPending.toNat_le
  have hc : s.cursor.toNat < 256 := s.cursor.isLt
  rw [s.stat_toNat]
  omega

theorem Status.code_toNat_eq_two {st : Status} : st.code.toNat = 2 ↔ st = .complete := by
  cases st <;> decide

theorem Status.code_toNat_eq_three {st : Status} : st.code.toNat = 3 ↔ st = .error := by
  cases st <;> decide

@[simp] theorem State.completeOutput_eq_true {s : State} : s.completeOutput = true ↔ s.status = .complete :=
  decide_eq_true_iff

@[simp] theorem State.errorOutput_eq_true {s : State} : s.errorOutput = true ↔ s.status = .error :=
  decide_eq_true_iff

/-- Settles O31: the layout is the value of a concatenation, so its quotient by 512 is the status code, and only
COMPLETE has code 2 and only ERROR code 3. -/
theorem statusWordLayout : Obligations.StatusWordLayout := by
  refine ⟨⟨rfl, rfl, rfl, rfl⟩, fun s =>
    ⟨s.stat_toNat, State.completeOutput_eq_true, State.errorOutput_eq_true, ?_, ?_⟩⟩
  · rw [s.stat_toNat_div, Status.code_toNat_eq_two, State.completeOutput_eq_true]
  · rw [s.stat_toNat_div, Status.code_toNat_eq_three, State.errorOutput_eq_true]

/-! ### What only a reset takes back -/

/-- What no operation but a reset undoes (10_state.md R22): a terminal status, the cursor's advance, and the cells
below the cursor. -/
structure KeepsProgress (s t : State) : Prop where
  /-- COMPLETE and ERROR are not left. -/
  terminal : s.status = .complete ∨ s.status = .error → t.status = s.status
  /-- The cursor is not lowered. -/
  cursor : s.cursor.toNat ≤ t.cursor.toNat
  /-- The cells decoded so far are as they were. -/
  cells : ∀ i, i < s.cursor.toNat → readLinear t.linearBuffer i = readLinear s.linearBuffer i

theorem KeepsProgress.refl (s : State) : KeepsProgress s s := ⟨fun _ => rfl, le_rfl, fun _ _ => rfl⟩

theorem KeepsProgress.trans {s m t : State} (hm : KeepsProgress s m) (ht : KeepsProgress m t) :
    KeepsProgress s t where
  terminal h := by
    have hsm := hm.terminal h
    rw [ht.terminal (hsm ▸ h), hsm]
  cursor := hm.cursor.trans ht.cursor
  cells i hi := (ht.cells i (hi.trans_le hm.cursor)).trans (hm.cells i hi)

/-- A status that decodes is not terminal, so only the cursor and the cells are left to show. -/
theorem KeepsProgress.of_decoding {s t : State} (hs : s.Decoding) (hc : s.cursor.toNat ≤ t.cursor.toNat)
    (hl : ∀ i, i < s.cursor.toNat → readLinear t.linearBuffer i = readLinear s.linearBuffer i) :
    KeepsProgress s t where
  terminal h := by
    have ht := Status.terminal_eq_true.2 h
    rw [Status.terminal_eq_false.2 hs] at ht
    cases ht
  cursor := hc
  cells := hl

theorem NybbleEffect.keepsProgress {v : Byte} {s t : State} (hs : s.Decoding) (h : NybbleEffect v s t) :
    KeepsProgress s t := by
  obtain rfl | ⟨-, -, rfl⟩ | ⟨n, b, -, hw⟩ := h
  · exact .of_decoding hs le_rfl fun _ _ => rfl
  · exact .of_decoding hs le_rfl fun _ _ => rfl
  · exact .of_decoding hs (by rw [hw.cursor]; omega) fun i hi => by rw [hw.cells, if_neg (by omega)]

theorem execNyb_keepsProgress {v : Byte} {s t : State} (e : execNyb v s = .next t) : KeepsProgress s t := by
  obtain ⟨-, rfl⟩ | ⟨hs, h⟩ := execNyb_eq_next e
  · exact .refl _
  · exact h.keepsProgress hs

theorem execByte_keepsProgress {b : Byte} {s t : State} (e : execByte b s = .next t) : KeepsProgress s t := by
  obtain ⟨m, hlow, hhigh⟩ := execByte_eq_next e
  exact (execNyb_keepsProgress hlow).trans (execNyb_keepsProgress hhigh)

theorem beginOp_keepsProgress (s : State) (rest : List HostOp) : KeepsProgress s (beginOp s rest) :=
  ⟨fun _ => rfl, le_rfl, fun _ _ => rfl⟩

/-- A step whose operation is no reset takes nothing back. -/
theorem step_keepsProgress {s t : State} {op : HostOp} {rest : List HostOp} (hops : s.hostOps = op :: rest)
    (hop : op.isReset = false) (e : step s = .next t) : KeepsProgress s t := by
  obtain ⟨hnil, -⟩ | ⟨op', rest', hops', h⟩ := step_eq_next e
  · cases hops.symm.trans hnil
  · cases hops.symm.trans hops'
    obtain ⟨v, -, hn⟩ | ⟨b, -, hb⟩ | ⟨hreset, -⟩ | ⟨-, d, n, rfl⟩ := h
    · exact (beginOp_keepsProgress s rest).trans (execNyb_keepsProgress hn)
    · exact (beginOp_keepsProgress s rest).trans (execByte_keepsProgress hb)
    · exact absurd hreset (by simp [hop])
    · exact ⟨fun _ => rfl, le_rfl, fun _ _ => rfl⟩

/-- Both kinds of reset are RST of some operand (70_reset_and_hazards.md R140). -/
theorem HostOp.instr_of_isReset {op : HostOp} (h : op.isReset = true) : ∃ din, op.instr = .rst din := by
  cases op with
  | rstInput => exact ⟨0, rfl⟩
  | command w =>
    have hw : w.toNat / 256 = 2 := of_decide_eq_true h
    exact ⟨w.setWidth 8, by simp only [HostOp.instr, decodeCommand, hw]⟩

/-- A reset completes in every state, and only resets the block. -/
theorem step_of_isReset {s : State} {op : HostOp} {rest : List HostOp} (hops : s.hostOps = op :: rest)
    (hop : op.isReset = true) : step s = .next (resetBlock (beginOp s rest)) := by
  obtain ⟨din, hi⟩ := HostOp.instr_of_isReset hop
  simp only [step, hops, hi, exec, execRst]

/-- Settles O42: an operation other than a reset keeps progress, since a nybble does and so do two in a row; a reset
leaves the values of `resetBlock`. -/
theorem resetIsTheOnlyWayBack : Obligations.ResetIsTheOnlyWayBack := by
  intro s op rest hops
  refine ⟨fun hop t e => ?_, fun hop => ?_⟩
  · obtain ⟨hterminal, hcursor, hcells⟩ := step_keepsProgress hops hop e
    exact ⟨hterminal, hcursor, hcells⟩
  · exact ⟨_, step_of_isReset hops hop, rfl, rfl, rfl, readLinear_nil, fun _ => rfl⟩

end Sys2Proof.Machine
end

section
/-! SUPPORT. Proofs about memory (20_memory.md): the order in which a stream of bytes is taken apart. -/

namespace Sys2Proof.Machine

open Sys2Proof

/-! ### Streams of bytes -/

/-- BYTE and then `f` is NYB of the low half, NYB of the high half and then `f`, to every outcome. -/
theorem andThen_exec_byte (b : Byte) (s : State) (f : State → Host.Outcome State Fault Refusal) :
    andThen (exec (.byte b) s) f = andThen (exec (.nyb (zext8 (lowNybble b))) s) fun m =>
      andThen (exec (.nyb (zext8 (highNybble b))) m) f :=
  andThen_assoc _ _ f

theorem nybblesOfBytes_cons (b : Byte) (bs : List Byte) :
    nybblesOfBytes (b :: bs) = lowNybble b :: highNybble b :: nybblesOfBytes bs := rfl

/-- Feeding bytes is feeding the nybbles they spell. -/
theorem feedBytes_eq_feedNybbles (bs : List Byte) (s : State) :
    feedBytes bs s = feedNybbles (nybblesOfBytes bs) s := by
  induction bs generalizing s with
  | nil => rfl
  | cons b bs ih =>
    have hrest : feedBytes bs = feedNybbles (nybblesOfBytes bs) := funext ih
    calc feedBytes (b :: bs) s
        = andThen (exec (.byte b) s) (feedBytes bs) := rfl
      _ = andThen (exec (.nyb (zext8 (lowNybble b))) s) fun m =>
            andThen (exec (.nyb (zext8 (highNybble b))) m) (feedBytes bs) := andThen_exec_byte b s _
      _ = feedNybbles (nybblesOfBytes (b :: bs)) s := by
        rw [hrest, nybblesOfBytes_cons]
        rfl

/-- Settles O21, by induction on the bytes: each one is its two nybbles in sequence, and sequencing is associative. -/
theorem byteStreamSpellsItsNybbleStream : Obligations.ByteStreamSpellsItsNybbleStream :=
  feedBytes_eq_feedNybbles

end Sys2Proof.Machine
end

section
/-! SUPPORT. Proofs about the decoder's symbols (40_decoder_symbols.md): what each body does in a status that decodes,
and how the decoder step chooses among them. -/

namespace Sys2Proof.Machine

open Sys2Proof

/-! ### The symbols in a status that decodes -/

/-- An admitted literal with the cursor inside the buffer completes, and its code is the one cell written. -/
theorem execLit_decoding {s : State} {v : Nybble} (hs : s.Decoding) (hp : s.runPending = false)
    (hc : s.cursor.toNat < nLin) (hv : v.toNat ≤ codeMax) :
    ∃ t, execLit v s = .next t ∧ CellsWritten 1 (zext8 v) s t := by
  rw [execLit, admitSymbol_decoding hs (by simp [hp, hv]), if_pos hc]
  exact ⟨_, rfl, literalWrite_outcome hc hp (zext8 v)⟩

theorem execEsc_decoding {s : State} (hs : s.Decoding) (hp : s.runPending = false) :
    execEsc s = .next { s with runPending := true, status := .inProgress } :=
  admitSymbol_decoding hs (by simp [hp]) _

theorem execInvalid_decoding {s : State} {v : Byte} (hs : s.Decoding) (pending : Bool) (hv : nybLimit ≤ v.toNat) :
    execInvalid pending v s = .next { s with status := .error } :=
  admitSymbol_decoding hs (decide_eq_true hv) _

/-- Settles O10: the literal is admitted, and `literalWrite_outcome` says what its write and completion check leave. -/
theorem litWritesOneCell : Obligations.LitWritesOneCell :=
  fun _ _ hs hp hc hv => execLit_decoding hs hp (Nat.lt_succ_of_le hc) hv

/-- Settles O12: the escape is admitted, and its body sets two fields. -/
theorem escArmsARun : Obligations.EscArmsARun := fun _ => execEsc_decoding

/-- Settles O15: the operand is in INVALID's row in either mode, and raising an error sets the status alone. -/
theorem invalidOperandOnlySetsError : Obligations.InvalidOperandOnlySetsError :=
  fun _ pending _ hs hv => execInvalid_decoding hs pending hv

/-! ### The choice of the symbol -/

/-- In a status that decodes, NYB is the decoder step. -/
theorem execNyb_decoding {s : State} (hs : s.Decoding) (v : Byte) : execNyb v s = decodeNybble v s := by
  rw [execNyb, Status.terminal_eq_false.2 hs]
  exact if_neg Bool.false_ne_true

/-- Settles O18, by the five rows an operand can meet: in each, both the decoder step and the dispatch of R70 choose
that row's symbol. -/
theorem nybChoosesTheSymbol : Obligations.NybChoosesTheSymbol := by
  intro s v hs
  have hnyb : exec (.nyb v) s = decodeNybble v s := execNyb_decoding hs v
  rw [hnyb]
  obtain h | ⟨hp, h⟩ | ⟨hp, h⟩ | ⟨hp, h⟩ | ⟨hp, h⟩ := operand_cases s.runPending v
  · rw [decodeNybble_invalid h, if_pos h]
    rfl
  · rw [decodeNybble_run15 hp h, if_neg (by omega), if_neg (by simp [hp]), if_pos h]
    rfl
  · rw [decodeNybble_run hp h, if_neg (by omega), if_neg (by simp [hp]), if_neg (by omega)]
    rfl
  · rw [decodeNybble_esc hp h, if_neg (by omega), if_pos hp, if_pos h]
    rfl
  · rw [decodeNybble_lit hp h, if_neg (by omega), if_pos hp, if_neg (by omega)]
    rfl

end Sys2Proof.Machine
end

section
/-! SUPPORT. Proofs about the image assembly (41_image_assembly.md): the grayscale table. -/

namespace Sys2Proof.Machine

open Sys2Proof

/-- Settles O34, by the fifteen codes the bound leaves: each selects its own row of R94, never the free value that
stands above code 14. -/
theorem grayscaleTableIsThePrintedOne : Obligations.GrayscaleTableIsThePrintedOne := by
  intro c hc
  rw [grayscale]
  interval_cases c.toNat <;> rfl

end Sys2Proof.Machine
end

section
/-! SUPPORT. Proofs about the exception (60_exceptions.md): the instruction or the half of a BYTE that enters ERROR
changes the status alone, and what follows it is discarded. -/

namespace Sys2Proof.Machine

open Sys2Proof

/-! ### Nybbles in a terminal status -/

theorem execNyb_terminal {s : State} (h : s.status.terminal = true) (v : Byte) : execNyb v s = .next s := if_pos h

theorem execByte_terminal {s : State} (h : s.status.terminal = true) (b : Byte) : execByte b s = .next s := by
  rw [execByte, execNyb_terminal h, andThen_next, execNyb_terminal h]

/-! ### A nybble that ends in ERROR -/

/-- A write never ends in ERROR. -/
theorem CellsWritten.status_ne_error {n : Nat} {v : Byte} {s t : State} (h : CellsWritten n v s t) :
    t.status ≠ .error := by
  rw [h.status]
  split <;> simp

/-- The effect of an admitted operand that ends in ERROR is the one that sets the status alone. -/
theorem NybbleEffect.eq_of_error {v : Byte} {s t : State} (h : NybbleEffect v s t) (ht : t.status = .error) :
    t = { s with status := .error } := by
  obtain h | ⟨-, -, rfl⟩ | ⟨n, b, -, hw⟩ := h
  · exact h
  · cases ht
  · exact absurd ht hw.status_ne_error

theorem execNyb_eq_of_error {v : Byte} {s t : State} (e : execNyb v s = .next t) (ht : t.status = .error) :
    t = { s with status := .error } := by
  obtain ⟨-, rfl⟩ | ⟨-, h⟩ := execNyb_eq_next e
  · rw [← ht]
  · exact h.eq_of_error ht

/-! ### Symbols as nybbles -/

theorem lowHalf_zext8 (q : Nybble) : lowHalf (zext8 q) = q :=
  BitVec.eq_of_toNat_eq (by rw [lowHalf_toNat] <;> rw [zext8_toNat]; exact q.isLt)

/-- A symbol that answers a next state answers what NYB does of an operand the decoder step reads as that symbol. -/
theorem execNyb_of_admitSymbol {v : Byte} {read : Bool} {s t : State}
    {body : State → Host.Outcome State Fault Refusal}
    (hread : read = true → decodeNybble v s = admitSymbol read s body) (e : admitSymbol read s body = .next t) :
    execNyb v s = .next t := by
  obtain ⟨hterminal, rfl⟩ | ⟨hs, hr, -⟩ := admitSymbol_eq_next e
  · exact execNyb_terminal hterminal v
  · rw [execNyb_decoding hs, hread hr, e]

/-- What any instruction but BYTE answers when it answers a next state: what NYB of some operand does, or a state with
the same status, or one in BEGIN. -/
theorem exec_eq_next {i : Instr} {s t : State} (hi : ∀ b, i ≠ .byte b) (e : exec i s = .next t) :
    (∃ v, execNyb v s = .next t) ∨ t.status = s.status ∨ t.status = .begin := by
  cases i with
  | esc =>
    exact .inl ⟨15, execNyb_of_admitSymbol (fun hr => decodeNybble_esc (by simpa using hr) rfl) e⟩
  | run15 => exact .inl ⟨15, execNyb_of_admitSymbol (fun hr => decodeNybble_run15 hr rfl) e⟩
  | lit q =>
    rw [exec, execLit] at e
    refine .inl ⟨zext8 q, execNyb_of_admitSymbol (fun hr => ?_) e⟩
    obtain ⟨hp, hq⟩ : s.runPending = false ∧ q.toNat ≤ 14 := by simpa [codeMax] using hr
    rw [decodeNybble_lit hp (by rwa [zext8_toNat]), lowHalf_zext8, execLit]
  | run x =>
    rw [exec, execRun] at e
    refine .inl ⟨zext8 x, execNyb_of_admitSymbol (fun hr => ?_) e⟩
    obtain ⟨hp, hx⟩ : s.runPending = true ∧ x.toNat ≤ 14 := by simpa [codeMax] using hr
    rw [decodeNybble_run hp (by rwa [zext8_toNat]), lowHalf_zext8, execRun]
  | invalid pending v =>
    exact .inl ⟨v, execNyb_of_admitSymbol (fun hr => decodeNybble_invalid (of_decide_eq_true hr)) e⟩
  | nyb v => exact .inl ⟨v, e⟩
  | byte b => exact absurd rfl (hi b)
  | rst din => cases e; exact .inr (.inr rfl)
  | rdpix g =>
    obtain ⟨d, n, h⟩ := execRdpix_next g s
    cases h.symm.trans e
    exact .inr (.inl rfl)
  | rdlin k =>
    obtain ⟨d, n, h⟩ := execRdlin_next k s
    cases h.symm.trans e
    exact .inr (.inl rfl)
  | reserved5 | reserved6 | reserved7 => cases e
  | assemble => cases e; exact .inr (.inl rfl)

/-! ### Entering ERROR -/

/-- Any instruction but BYTE that enters ERROR did so as a nybble, so it set the status alone. -/
theorem exec_eq_of_enters_error {i : Instr} {s t : State} (hi : ∀ b, i ≠ .byte b) (hs : s.status ≠ .error)
    (e : exec i s = .next t) (ht : t.status = .error) : t = { s with status := .error } := by
  obtain ⟨v, hv⟩ | hsame | hbegin := exec_eq_next hi e
  · exact execNyb_eq_of_error hv ht
  · exact absurd (hsame.symm.trans ht) hs
  · cases hbegin.symm.trans ht

/-- A BYTE that ends in ERROR failed in its low half, and the high half was discarded, or in its high half. -/
theorem execByte_eq_of_error {b : Byte} {s t : State} (e : execByte b s = .next t) (ht : t.status = .error) :
    (execNyb (zext8 (lowNybble b)) s = .next t ∧ t = { s with status := .error }) ∨
      ∃ m, execNyb (zext8 (lowNybble b)) s = .next m ∧ m.status ≠ .error ∧
        execNyb (zext8 (highNybble b)) m = .next t ∧ t = { m with status := .error } := by
  obtain ⟨m, hlow, hhigh⟩ := execByte_eq_next e
  by_cases hm : m.status = .error
  · rw [execNyb_terminal (Status.terminal_eq_true.2 (.inr hm))] at hhigh
    cases hhigh
    exact .inl ⟨hlow, execNyb_eq_of_error hlow ht⟩
  · exact .inr ⟨m, hlow, hm, hhigh, execNyb_eq_of_error hhigh ht⟩

/-- Settles O24: only a nybble enters ERROR, and it sets the status alone; a BYTE is two nybbles, of which one fails;
the state left is terminal, where every nybble is discarded. -/
theorem enteringErrorChangesOnlyTheStatus : Obligations.EnteringErrorChangesOnlyTheStatus := by
  intro s t i hs e ht
  have hterminal : t.status.terminal = true := Status.terminal_eq_true.2 (.inr ht)
  refine ⟨fun hi => exec_eq_of_enters_error hi hs e ht, ?_, Bool.eq_false_iff.2 (mt State.errorOutput_eq_true.1 hs),
    State.errorOutput_eq_true.2 ht, execNyb_terminal hterminal, execByte_terminal hterminal⟩
  rintro b rfl
  exact execByte_eq_of_error e ht

end Sys2Proof.Machine
end

section
/-! SUPPORT. Proofs about the two encodings (30_encoding.md): the fields of a word, and that the decoders and the
encoder are inverse. -/

namespace Sys2Proof

/-! ### The fields of a word -/

/-- Bit 8 of a decode word is run_pending. -/
@[simp] theorem symbolWord_getLsbD (p : Bool) (v : Byte) : (symbolWord p v).getLsbD 8 = p := by
  rw [symbolWord, BitVec.getLsbD_append]
  simp

/-- Bits 7 to 0 of a decode word are the operand. -/
@[simp] theorem symbolWord_setWidth (p : Bool) (v : Byte) : (symbolWord p v).setWidth 8 = v :=
  BitVec.setWidth_append_eq_right

/-- Every decode word is put together from its two fields. -/
theorem symbolWord_eta (w : DecodeWord) : symbolWord (w.getLsbD 8) (w.setWidth 8) = w := by
  apply BitVec.eq_of_toNat_eq
  have h : w.toNat < 512 := w.isLt
  rw [symbolWord, Machine.toNat_append_eq_add, BitVec.toNat_ofBool, BitVec.getLsbD, Nat.toNat_testBit,
    BitVec.toNat_setWidth]
  omega

/-- Bits 7 to 0 of a command word are the operand. -/
@[simp] theorem commandWord_setWidth (op : BitVec 3) (din : Byte) : (commandWord op din).setWidth 8 = din :=
  BitVec.setWidth_append_eq_right

/-- Bits 10 to 8 of a command word are the op field. -/
@[simp] theorem commandWord_toNat_div (op : BitVec 3) (din : Byte) : (commandWord op din).toNat / 256 = op.toNat := by
  have h : din.toNat < 256 := din.isLt
  rw [commandWord, Machine.toNat_append_eq_add]
  omega

/-- Every command word is put together from its two fields. -/
theorem commandWord_eta (w : CommandWord) : commandWord (w.extractLsb' 8 3) (w.setWidth 8) = w := by
  apply BitVec.eq_of_toNat_eq
  have h : w.toNat < 2048 := w.isLt
  rw [commandWord, Machine.toNat_append_eq_add, BitVec.extractLsb'_toNat, BitVec.toNat_setWidth,
    Nat.shiftRight_eq_div_pow]
  omega

/-! ### Decoding by the fields -/

/-- The stream's decode table by run_pending and operand (30_encoding.md R54). -/
theorem decodeSymbol_symbolWord (p : Bool) (v : Byte) : decodeSymbol (symbolWord p v) =
    if 16 ≤ v.toNat then .invalid p v
    else if p then if v.toNat = 15 then .run15 else .run (v.setWidth 4)
    else if v.toNat = 15 then .esc else .lit (v.setWidth 4) := by
  rw [decodeSymbol, symbolWord_getLsbD, symbolWord_setWidth]

theorem decodeSymbol_invalid {v : Byte} (p : Bool) (h : 16 ≤ v.toNat) :
    decodeSymbol (symbolWord p v) = .invalid p v := by
  rw [decodeSymbol_symbolWord, if_pos h]

theorem decodeSymbol_run {x : Nybble} (h : x.toNat ≤ 14) :
    decodeSymbol (symbolWord true (Machine.zext8 x)) = .run x := by
  rw [decodeSymbol_symbolWord, Machine.zext8_toNat, if_neg (by omega), if_pos rfl, if_neg (by omega)]
  exact congrArg Instr.run (Machine.lowHalf_zext8 x)

theorem decodeSymbol_lit {v : Nybble} (h : v.toNat ≤ 14) :
    decodeSymbol (symbolWord false (Machine.zext8 v)) = .lit v := by
  rw [decodeSymbol_symbolWord, Machine.zext8_toNat, if_neg (by omega), if_neg Bool.false_ne_true, if_neg (by omega)]
  exact congrArg Instr.lit (Machine.lowHalf_zext8 v)

/-- The row of the command table by the op field (30_encoding.md R58). -/
def commandOf (op : BitVec 3) (din : Byte) : Instr :=
  match op.toNat with
  | 0 => .nyb din
  | 1 => .byte din
  | 2 => .rst din
  | 3 => .rdpix din
  | 4 => .rdlin din
  | 5 => .reserved5 din
  | 6 => .reserved6 din
  | _ => .reserved7 din

theorem decodeCommand_commandWord (op : BitVec 3) (din : Byte) :
    decodeCommand (commandWord op din) = commandOf op din := by
  rw [decodeCommand, commandWord_toNat_div, commandWord_setWidth]
  rfl

theorem commandOf_wf_and_encode (op : BitVec 3) (din : Byte) :
    (commandOf op din).wf = true ∧ encode (commandOf op din) = some (.command (commandWord op din)) := by
  have hlt : op.toNat < 8 := op.isLt
  obtain ⟨n, hn⟩ : ∃ n, n = op.toNat := ⟨_, rfl⟩
  have hop : op = BitVec.ofNat 3 n := by rw [hn, BitVec.ofNat_toNat, BitVec.setWidth_eq]
  subst hop
  rw [← hn] at hlt
  interval_cases n <;> exact ⟨rfl, rfl⟩

/-! ### Decoding and encoding are inverse -/

/-- Settles O1, by the instruction: a stream symbol by its row of the decode table, a command by its op field. -/
theorem decodeOfEncodeIsTheInstruction : Obligations.DecodeOfEncodeIsTheInstruction := by
  intro i hwf hi
  cases i with
  | esc | run15 => exact ⟨_, rfl, rfl⟩
  | lit v => exact ⟨_, rfl, decodeSymbol_lit (of_decide_eq_true hwf)⟩
  | run x => exact ⟨_, rfl, decodeSymbol_run (of_decide_eq_true hwf)⟩
  | invalid p v => exact ⟨_, rfl, decodeSymbol_invalid p (of_decide_eq_true hwf)⟩
  | nyb | byte | rst | rdpix | rdlin | reserved5 | reserved6 | reserved7 =>
    exact ⟨_, rfl, decodeCommand_commandWord _ _⟩
  | assemble => exact absurd rfl hi

/-- A decode word's symbol is well-formed and encodes to the word, by the five rows its operand can meet. -/
theorem decodeSymbol_wf_and_encode (p : Bool) (v : Byte) : (decodeSymbol (symbolWord p v)).wf = true ∧
    encode (decodeSymbol (symbolWord p v)) = some (.symbol (symbolWord p v)) := by
  obtain h | ⟨rfl, h⟩ | ⟨rfl, h⟩ | ⟨rfl, h⟩ | ⟨rfl, h⟩ := Machine.operand_cases p v
  · rw [decodeSymbol_invalid p h]
    exact ⟨decide_eq_true h, rfl⟩
  · obtain rfl : v = 15 := BitVec.eq_of_toNat_eq h
    exact ⟨rfl, rfl⟩
  · obtain ⟨q, rfl⟩ : ∃ q, Machine.zext8 q = v := ⟨_, Machine.zext8_lowHalf (by omega)⟩
    rw [Machine.zext8_toNat] at h
    rw [decodeSymbol_run h]
    exact ⟨decide_eq_true h, rfl⟩
  · obtain rfl : v = 15 := BitVec.eq_of_toNat_eq h
    exact ⟨rfl, rfl⟩
  · obtain ⟨q, rfl⟩ : ∃ q, Machine.zext8 q = v := ⟨_, Machine.zext8_lowHalf (by omega)⟩
    rw [Machine.zext8_toNat] at h
    rw [decodeSymbol_lit h]
    exact ⟨decide_eq_true h, rfl⟩

/-- Settles O2: every word is put together from its fields, and the decoders read the fields. -/
theorem encodeOfDecodeIsTheWord : Obligations.EncodeOfDecodeIsTheWord := by
  rintro (w | w)
  · rw [← symbolWord_eta w]
    exact decodeSymbol_wf_and_encode _ _
  · rw [← commandWord_eta w, decode, decodeCommand_commandWord]
    exact commandOf_wf_and_encode _ _

/-- The first row that the word of a well-formed instruction meets is the instruction's own. -/
theorem firstRow_encode (i : Instr) (h : i.wf = true) : (encode i).map firstRow = i.rowIndex := by
  cases i with
  | esc => exact Laws.HitsItsRow.esc h
  | run15 => exact Laws.HitsItsRow.run15 h
  | lit v => exact Laws.HitsItsRow.lit v h
  | run x => exact Laws.HitsItsRow.run x h
  | invalid p v => exact Laws.HitsItsRow.invalid p v h
  | nyb v => exact Laws.HitsItsRow.nyb v h
  | byte b => exact Laws.HitsItsRow.byte b h
  | rst din => exact Laws.HitsItsRow.rst din h
  | rdpix g => exact Laws.HitsItsRow.rdpix g h
  | rdlin i => exact Laws.HitsItsRow.rdlin i h
  | reserved5 din => exact Laws.HitsItsRow.reserved5 din h
  | reserved6 din => exact Laws.HitsItsRow.reserved6 din h
  | reserved7 din => exact Laws.HitsItsRow.reserved7 din h
  | assemble => rfl

/-- Settles O3: the word is the encoding of what it decodes to, whose first row is its own. -/
theorem decodersReadTheFirstRow : Obligations.DecodersReadTheFirstRow := by
  intro w
  obtain ⟨hwf, henc⟩ := encodeOfDecodeIsTheWord w
  rw [← firstRow_encode _ hwf, henc, Option.map_some]

/-- Settles O4: closed words, each read by evaluating the decoder. -/
theorem spelledWordsDecode : Obligations.SpelledWordsDecode := by
  unfold Obligations.SpelledWordsDecode
  decide

end Sys2Proof
end

section
/-! SUPPORT. Proofs about the step (20_memory.md, 70_reset_and_hazards.md): the operation it takes, and a word placed
for it. -/

namespace Sys2Proof.Machine

open Sys2Proof

/-! ### The operation a step takes -/

/-- With an operation issued, the step runs it whole. -/
theorem step_of_hostOps {s : State} {op : HostOp} {rest : List HostOp} (h : s.hostOps = op :: rest) :
    step s = exec op.instr (beginOp s rest) := by
  rw [step, h]

/-- Settles O5: the operation issued next is the one the step runs. -/
theorem stepRunsTheDecodedInstruction : Obligations.StepRunsTheDecodedInstruction :=
  fun _ _ _ h => step_of_hostOps h

/-- Settles O6: with nothing issued the step has nothing to run. -/
theorem stepWithoutAnOperationChangesNothing : Obligations.StepWithoutAnOperationChangesNothing := by
  intro s h
  rw [step, h]

theorem HostOp.isReset_commandWord_two (din : Byte) : (HostOp.command (commandWord 2 din)).isReset = true :=
  decide_eq_true (commandWord_toNat_div 2 din)

/-- Settles O7: both operations are resets, and a reset does the same whichever asked for it. -/
theorem resetInputActsAsRst : Obligations.ResetInputActsAsRst := by
  intro s rest din
  rw [step_of_isReset rfl (rfl : HostOp.rstInput.isReset = true),
    step_of_isReset rfl (HostOp.isReset_commandWord_two din)]
  rfl

/-! ### Placed words -/

/-- In every state NYB runs the symbol the decode table reads from run_pending and the operand: in a status that
decodes that is the dispatch of R70, and in a terminal status both discard. -/
theorem execNyb_eq_exec_decodeSymbol (v : Byte) (s : State) :
    execNyb v s = exec (decodeSymbol (symbolWord s.runPending v)) s := by
  rw [decodeSymbol_symbolWord]
  by_cases ht : s.status.terminal = true
  · rw [execNyb, if_pos ht]
    split_ifs <;> exact (if_pos ht).symm
  · rw [execNyb, if_neg ht, decodeNybble]
    simp only [nybLimit]
    split_ifs <;> rfl

theorem tableWord_symbol (w : DecodeWord) : tableWord 9 w.toNat = .ok (.symbol w) := by
  rw [tableWord, if_pos (by simp [isSymbolNumber]), symbolOfNat, if_pos w.isLt, BitVec.ofNat_toNat, BitVec.setWidth_eq]

theorem tableWord_command (w : CommandWord) : tableWord 11 w.toNat = .ok (.command w) := by
  rw [tableWord, if_neg (by simp [isSymbolNumber]), commandOfNat, if_pos w.isLt, BitVec.ofNat_toNat,
    BitVec.setWidth_eq]

/-- Settles O8: the word is placed as NYB of its operand with its bit 8 pending, and NYB runs the symbol of the
word put together from these two. -/
theorem placedStreamWordRunsItsSymbol : Obligations.PlacedStreamWordRunsItsSymbol := by
  intro s w
  rw [State.withFetchWord, tableWord_symbol]
  calc step (placeWord s (.symbol w))
      = exec (decodeCommand (commandWord 0 (w.setWidth 8))) { s with runPending := w.getLsbD 8, dout := none } :=
        step_of_hostOps (op := .command (commandWord 0 (w.setWidth 8))) (rest := s.hostOps) rfl
    _ = execNyb (w.setWidth 8) { s with runPending := w.getLsbD 8, dout := none } := by
        rw [decodeCommand_commandWord]
        rfl
    _ = exec (decodeSymbol w) { s with runPending := w.getLsbD 8, dout := none } := by
        rw [execNyb_eq_exec_decodeSymbol, symbolWord_eta]

/-- Settles O9: a placed command word is the operation issued next. -/
theorem placedCommandWordRunsItsOperation : Obligations.PlacedCommandWordRunsItsOperation := by
  intro s w
  rw [State.withFetchWord, tableWord_command]
  exact step_of_hostOps (op := .command w) (rest := s.hostOps) rfl

end Sys2Proof.Machine
end

section
/-! SUPPORT. Proofs about the decoder's symbols and NYB (40_decoder_symbols.md): what each leaves, where it stops, and
what the effect of a nybble says of run_pending and the status. -/

namespace Sys2Proof.Machine

open Sys2Proof

/-! ### Runs in a status that decodes -/

theorem execRun_decoding {s : State} {x : Nybble} (hs : s.Decoding) (hp : s.runPending = true)
    (hx : x.toNat ≤ codeMax) : execRun x s = .next (runOfZeros (runLength x) s) :=
  admitSymbol_decoding hs (by simp [hp, hx]) _

theorem execRun15_decoding {s : State} (hs : s.Decoding) (hp : s.runPending = true) :
    execRun15 s = .next (escapeInRun Config.escInRun s) :=
  admitSymbol_decoding hs hp _

/-- Settles O13: the run is admitted, and `runOfZeros_outcome` says what its body leaves. -/
theorem runWritesZerosOrRaisesError : Obligations.RunWritesZerosOrRaisesError :=
  fun s _ hs hp hx => ⟨_, execRun_decoding hs hp hx, runOfZeros_outcome _ s⟩

/-- Settles O14: the symbol is admitted, and `escapeInRun_outcome` holds under either value of the parameter. -/
theorem run15FollowsTheParameter : Obligations.Run15FollowsTheParameter :=
  fun s hs hp => ⟨_, execRun15_decoding hs hp, escapeInRun_outcome _ s⟩

/-! ### Where a symbol stops or is discarded -/

/-- In a status that decodes, a symbol the decode table does not read is refused. -/
theorem admitSymbol_refused {read : Bool} {s : State} (hs : s.Decoding) (hr : read = false)
    (body : State → Host.Outcome State Fault Refusal) : admitSymbol read s body = .refused .symbolNotDecoded := by
  simp [admitSymbol, Status.terminal_eq_false.2 hs, hr]

/-- In a terminal status a symbol is discarded. -/
theorem admitSymbol_terminal {s : State} (ht : s.status.terminal = true) (read : Bool)
    (body : State → Host.Outcome State Fault Refusal) : admitSymbol read s body = .next s := if_pos ht

/-- Settles O11: the literal is admitted, and its write would fall outside the buffer. -/
theorem litOutsideTheBufferFaults : Obligations.LitOutsideTheBufferFaults := by
  intro s v hs hp hv hc
  rw [exec, execLit, admitSymbol_decoding hs (by simp [hp, hv, codeMax]), if_neg (Nat.not_lt.2 hc)]

/-- Settles O16: each of the symbols fails the admission test of its own row. -/
theorem symbolsOutsideTheirRowAreRefused : Obligations.SymbolsOutsideTheirRowAreRefused := by
  intro s hs
  refine ⟨fun hp => ⟨?_, fun v => ?_⟩, fun hp => ⟨?_, fun x => ?_⟩, ?_, ?_, fun p v hv => ?_⟩ <;>
    apply admitSymbol_refused hs
  · simp [hp]
  · simp [hp]
  · exact hp
  · simp [hp]
  · simp [codeMax]
  · simp [codeMax]
  · exact decide_eq_false (Nat.not_le.2 (Nat.lt_succ_of_le hv))

/-- Settles O17: NYB, BYTE and every symbol test for a terminal status first. -/
theorem terminalStatusDiscardsNybbles : Obligations.TerminalStatusDiscardsNybbles := by
  intro s h
  have ht : s.status.terminal = true := Status.terminal_eq_true.2 h
  refine ⟨execNyb_terminal ht, execByte_terminal ht, ?_, ?_, fun _ => ?_, fun _ => ?_, fun _ _ => ?_⟩ <;>
    apply admitSymbol_terminal ht

/-! ### What NYB leaves -/

/-- In a status that decodes, with the cursor inside the buffer, NYB completes with the effect of its operand's row. -/
theorem execNyb_outcome {s : State} (hs : s.Decoding) (hc : s.cursor.toNat ≤ 180) (v : Byte) :
    ∃ t, execNyb v s = .next t ∧ DecodeOutcome v s t := by
  rw [execNyb_decoding hs]
  exact decodeNybble_outcome hs hc v

/-- Settles O19: in a status that decodes NYB is the decoder step, and `decodeNybble_outcome` says what that leaves. -/
theorem nybDecodesItsOperand : Obligations.NybDecodesItsOperand := fun _ v hs hc => execNyb_outcome hs hc v

/-- If NYB answers a next state from a status that decodes, it had the effect of an admitted nybble. -/
theorem execNyb_effect {s t : State} {v : Byte} (hs : s.Decoding) (e : execNyb v s = .next t) :
    NybbleEffect v s t :=
  decodeNybble_eq_next hs (execNyb_decoding hs v ▸ e)

/-- The effect of an admitted nybble on run_pending: an error keeps it, an escape sets it, a write clears it, and a
write is never an escape. -/
theorem NybbleEffect.runPending {v : Byte} {s t : State} (h : NybbleEffect v s t) :
    if t.status = .error then t.runPending = s.runPending
    else t.runPending = (decide (v.toNat = 15) && !s.runPending) := by
  obtain rfl | ⟨hv, hp, rfl⟩ | ⟨n, b, hfits, hw⟩ := h
  · rw [if_pos rfl]
  · rw [if_neg (by simp)]
    simp [hv, hp]
  · rw [if_neg hw.status_ne_error, hw.runPending]
    obtain ⟨-, -, hv⟩ | hp := hfits.mode
    · rw [decide_eq_false (by omega), Bool.false_and]
    · rw [hp, Bool.not_true, Bool.and_false]

/-- Settles O22: an admitted nybble has one of three effects, and each says what becomes of run_pending. -/
theorem runPendingTracksTheEscape : Obligations.RunPendingTracksTheEscape :=
  fun _ _ _ hs e => (execNyb_effect hs e).runPending

/-! ### The causes of ERROR -/

theorem RunOutcome.status_eq_error {n : Nat} {s t : State} (h : RunOutcome n s t) :
    t.status = .error ↔ 181 < s.cursor.toNat + n := by
  unfold RunOutcome at h
  split at h
  · next hover => exact iff_of_true (by rw [h]) hover
  · next hfits => exact iff_of_false h.status_ne_error hfits

theorem EscapeInRunOutcome.status_eq_error {p : EscInRun} {s t : State} (h : EscapeInRunOutcome p s t) :
    t.status = .error ↔ escapeInRunFails p s.cursor.toNat := by
  cases p with
  | run18 => exact RunOutcome.status_eq_error h
  | error => exact iff_of_true (congrArg State.status h) trivial

/-- An admitted nybble ends in ERROR exactly by one of the three causes of 60_exceptions.md R120. -/
theorem DecodeOutcome.status_eq_error {v : Byte} {s t : State} (h : DecodeOutcome v s t) :
    t.status = .error ↔
      16 ≤ v.toNat ∨
      (s.runPending = true ∧ v.toNat ≤ 14 ∧ 181 < s.cursor.toNat + v.toNat + 3) ∨
      (s.runPending = true ∧ v.toNat = 15 ∧ escapeInRunFails Config.escInRun s.cursor.toNat) := by
  unfold DecodeOutcome at h
  obtain hv | ⟨hp, hv⟩ | ⟨hp, hv⟩ | ⟨hp, hv⟩ | ⟨hp, hv⟩ := operand_cases s.runPending v
  · rw [if_pos hv] at h
    exact iff_of_true (by rw [h]) (.inl hv)
  · rw [if_neg (by omega), if_neg (by simp [hp]), if_pos hv] at h
    simp [h.status_eq_error, hp, hv]
  · rw [if_neg (by omega), if_neg (by simp [hp]), if_neg (by omega)] at h
    rw [h.status_eq_error, ← Nat.add_assoc]
    simp only [hp, hv, true_and]
    omega
  · rw [if_neg (by omega), if_pos hp, if_pos hv] at h
    simp [h, hp, hv]
  · rw [if_neg (by omega), if_pos hp, if_neg (by omega)] at h
    simp only [h.status_ne_error, hp, false_iff, Bool.false_eq_true, false_and, or_false]
    omega

/-- Settles O25: for NYB by the outcome of its operand's row; the other operations keep the status or leave BEGIN. -/
theorem errorHasExactlyItsCauses : Obligations.ErrorHasExactlyItsCauses := by
  refine ⟨fun s v hs hc => ?_, fun s a i hi => ?_⟩
  · obtain ⟨t, e, h⟩ := execNyb_outcome hs hc v
    exact ⟨t, e, h.status_eq_error⟩
  · simp only [List.mem_cons, List.not_mem_nil, or_false] at hi
    obtain rfl | rfl | rfl | rfl := hi
    · exact ⟨_, rfl, fun h => by cases h⟩
    · obtain ⟨d, n, e⟩ := execRdpix_next a s
      exact ⟨_, e, fun h => ⟨h, by simp⟩⟩
    · obtain ⟨d, n, e⟩ := execRdlin_next a s
      exact ⟨_, e, fun h => ⟨h, by simp⟩⟩
    · exact ⟨_, rfl, fun h => ⟨h, by simp⟩⟩

end Sys2Proof.Machine
end

section
/-! SUPPORT. Proofs about the invariants (10_state.md section 7): that reset meets them, that every step keeps them, and
what follows for NYB and BYTE and for the grid image. -/

namespace Sys2Proof.Machine

open Sys2Proof

/-! ### Invariants under one nybble -/

/-- The output, the operations to come and the draw count are no part of the invariants. -/
theorem State.Inv.setPort {s : State} (hi : s.Inv) (d : Option Byte) (ops : List HostOp) (n : Nat) :
    State.Inv { s with dout := d, hostOps := ops, draws := n } := { hi with }

theorem State.Decoding.ne_complete {s : State} (hs : s.Decoding) : s.status ≠ .complete := by
  obtain h | h := hs <;> simp [h]

/-- Outside COMPLETE the cursor is inside the buffer. -/
theorem State.Inv.cursor_le_180 {s : State} (hi : s.Inv) (hs : s.Decoding) : s.cursor.toNat ≤ 180 := by
  have hne : s.cursor.toNat ≠ 181 := mt hi.complete_iff.2 hs.ne_complete
  have hle := hi.cursor_le
  omega

/-- A status that decodes may change to IN_PROGRESS or ERROR with any run_pending. -/
theorem State.Inv.setStatus {s : State} (hi : s.Inv) (hs : s.Decoding) (p : Bool) {st : Status}
    (hst : st = .inProgress ∨ st = .error) : State.Inv { s with runPending := p, status := st } := by
  have hc := hi.cursor_le_180 hs
  have hcomplete : st ≠ .complete := by obtain rfl | rfl := hst <;> simp
  have hbegin : st ≠ .begin := by obtain rfl | rfl := hst <;> simp
  exact
    { cursor_le := hi.cursor_le
      linear_wf := hi.linear_wf
      codes_le := hi.codes_le
      complete_iff := iff_of_false hcomplete (by show s.cursor.toNat ≠ 181; omega)
      begin_fresh := fun h => absurd h hbegin
      complete_no_run := fun h => absurd h hcomplete
      grid_wf := hi.grid_wf
      complete_image := fun h => absurd h hcomplete }

theorem CellsWritten.status_eq_complete {n : Nat} {b : Byte} {s t : State} (h : CellsWritten n b s t) :
    t.status = .complete ↔ t.cursor.toNat = 181 := by
  rw [h.status, h.cursor]
  split <;> simp [*]

theorem CellsWritten.status_ne_begin {n : Nat} {b : Byte} {s t : State} (h : CellsWritten n b s t) :
    t.status ≠ .begin := by
  rw [h.status]
  split <;> simp

/-- The image of a write that completes is built from the linear buffer it leaves. -/
theorem CellsWritten.image_of_complete {n : Nat} {b : Byte} {s t : State} (h : CellsWritten n b s t)
    (hc : t.status = .complete) : t.gridImage = assembleGrid t.linearBuffer := by
  rw [h.image, if_pos (h.cursor ▸ h.status_eq_complete.1 hc)]

/-- A write of codes that fits keeps the invariants, the canonical form of the linear buffer given. -/
theorem CellsWritten.inv {n : Nat} {b v : Byte} {s t : State} (h : CellsWritten n b s t) (hfits : WriteFits n b v s)
    (hi : s.Inv) (hwf : linearWf t.linearBuffer) : t.Inv where
  cursor_le := h.cursor ▸ hfits.fits
  linear_wf := hwf
  codes_le i := by
    rw [h.cells]
    split
    · exact hfits.code
    · exact hi.codes_le i
  complete_iff := h.status_eq_complete
  begin_fresh hb := absurd hb h.status_ne_begin
  complete_no_run _ := h.runPending
  grid_wf := by
    rw [h.image]
    split
    · exact gridWf_assembleGrid _
    · exact hi.grid_wf
  complete_image := h.image_of_complete

theorem NybbleEffect.inv {v : Byte} {s t : State} (h : NybbleEffect v s t) (hs : s.Decoding) (hi : s.Inv)
    (hwf : linearWf t.linearBuffer) : t.Inv := by
  obtain rfl | ⟨-, -, rfl⟩ | ⟨n, b, hfits, hw⟩ := h
  · exact hi.setStatus hs s.runPending (.inr rfl)
  · exact hi.setStatus hs true (.inl rfl)
  · exact hw.inv hfits hi hwf

theorem execNyb_inv {v : Byte} {s t : State} (hi : s.Inv) (e : execNyb v s = .next t) : t.Inv := by
  have hwf := execNyb_linearWf hi.linear_wf e
  obtain ⟨-, rfl⟩ | ⟨hs, h⟩ := execNyb_eq_next e
  · exact hi
  · exact h.inv hs hi hwf

/-- In a state that meets the invariants NYB completes, and leaves one that does. -/
theorem execNyb_next_of_inv {s : State} (hi : s.Inv) (v : Byte) : ∃ t, execNyb v s = .next t ∧ t.Inv := by
  obtain ⟨t, e⟩ : ∃ t, execNyb v s = .next t := by
    by_cases ht : s.status.terminal = true
    · exact ⟨s, execNyb_terminal ht v⟩
    · have hs : s.Decoding := Status.terminal_eq_false.1 (Bool.eq_false_iff.2 ht)
      obtain ⟨t, e, -⟩ := execNyb_outcome hs (hi.cursor_le_180 hs) v
      exact ⟨t, e⟩
  exact ⟨t, e, execNyb_inv hi e⟩

/-- Settles O20: the low half completes and keeps the invariants, so the high half completes from there. -/
theorem byteIsLowThenHighNybble : Obligations.ByteIsLowThenHighNybble := by
  intro s b hi
  obtain ⟨m, hlow, hm⟩ := execNyb_next_of_inv hi (zext8 (lowNybble b))
  obtain ⟨t, hhigh, -⟩ := execNyb_next_of_inv hm (zext8 (highNybble b))
  exact ⟨m, t, hlow, hhigh, andThen_eq_next.2 ⟨m, hlow, hhigh⟩⟩

/-! ### The status after a nybble -/

theorem NybbleEffect.status_ne_begin {v : Byte} {s t : State} (h : NybbleEffect v s t) : t.status ≠ .begin := by
  obtain rfl | ⟨-, -, rfl⟩ | ⟨n, b, -, hw⟩ := h
  · simp
  · simp
  · exact hw.status_ne_begin

/-- From BEGIN, where nothing is pending, a nybble writes at most the first cell. -/
theorem NybbleEffect.cursor_le_of_begin {v : Byte} {s t : State} (h : NybbleEffect v s t) (hc : s.cursor = 0)
    (hp : s.runPending = false) : t.cursor.toNat ≤ 1 := by
  obtain rfl | ⟨-, -, rfl⟩ | ⟨n, b, hfits, hw⟩ := h
  · simp [hc]
  · simp [hc]
  · obtain ⟨-, rfl, -⟩ | hrun := hfits.mode
    · simp [hw.cursor, hc]
    · simp [hp] at hrun

/-- Settles O23: the state NYB leaves meets the invariants, and its status and cursor are bounded by the effect. -/
theorem statusAfterANybble : Obligations.StatusAfterANybble := by
  intro s v hi hs
  obtain ⟨t, e, ht⟩ := execNyb_next_of_inv hi v
  have heffect := execNyb_effect hs e
  refine ⟨t, e, heffect.status_ne_begin, ht.complete_iff, fun hbegin => ?_⟩
  obtain ⟨hc, hp⟩ := hi.begin_fresh hbegin
  have hle := heffect.cursor_le_of_begin hc hp
  exact ⟨fun h => by have := ht.complete_iff.1 h; omega, hle⟩

/-! ### What every step keeps -/

/-- A predicate that ignores the port and is kept by reset and by every nybble is kept by every step. -/
theorem step_keeps {P : State → Prop} (hreset : ∀ s, P s → P (resetBlock s))
    (hnyb : ∀ {s t v}, P s → execNyb v s = .next t → P t)
    (hport : ∀ {s}, P s → ∀ d ops n, P { s with dout := d, hostOps := ops, draws := n })
    {s t : State} (hs : P s) (e : step s = .next t) : P t := by
  obtain ⟨-, rfl⟩ | ⟨op, rest, -, h⟩ := step_eq_next e
  · exact hs
  · have hbegin : P (beginOp s rest) := hport hs none rest s.draws
    obtain ⟨v, -, hn⟩ | ⟨b, -, hb⟩ | ⟨-, rfl⟩ | ⟨-, d, n, rfl⟩ := h
    · exact hnyb hbegin hn
    · obtain ⟨m, hlow, hhigh⟩ := execByte_eq_next hb
      exact hnyb (hnyb hbegin hlow) hhigh
    · exact hreset _ hbegin
    · exact hport hs d rest n

theorem resetBlock_inv (s : State) : (resetBlock s).Inv where
  cursor_le := Nat.zero_le _
  linear_wf := linearWf_nil
  codes_le _ := Nat.zero_le _
  complete_iff := by simp
  begin_fresh _ := ⟨rfl, rfl⟩
  complete_no_run _ := rfl
  grid_wf := gridWf_nil
  complete_image h := by simp at h

theorem resetBlock_tailZero (s : State) : (resetBlock s).TailZero := fun i _ => readLinear_nil i

/-- Settles O38: the state after reset is what a reset leaves of itself. -/
theorem resetMeetsTheInvariants : Obligations.ResetMeetsTheInvariants :=
  ⟨resetBlock_inv State.reset, resetBlock_tailZero State.reset, rfl⟩

/-- Settles O39: a reset establishes the invariants, a nybble keeps them, and the port is no part of them. -/
theorem stepKeepsTheInvariants : Obligations.StepKeepsTheInvariants :=
  fun _ _ hi e => step_keeps (fun s _ => resetBlock_inv s) execNyb_inv State.Inv.setPort hi e

theorem execNyb_tailZero {v : Byte} {s t : State} (hz : s.TailZero) (e : execNyb v s = .next t) : t.TailZero := by
  obtain ⟨-, rfl⟩ | ⟨-, rfl | ⟨-, -, rfl⟩ | ⟨n, b, -, hw⟩⟩ := execNyb_eq_next e
  · exact hz
  · exact hz
  · exact hz
  · intro i hi
    rw [hw.cursor] at hi
    rw [hw.cells, if_neg (by omega), hz i (by omega)]

/-- Settles O40: a write passes the cursor over every cell it changes. -/
theorem stepKeepsUndecodedCellsZero : Obligations.StepKeepsUndecodedCellsZero :=
  fun _ _ hz e => step_keeps (fun s _ => resetBlock_tailZero s) execNyb_tailZero (fun hz _ _ _ => hz) hz e

/-! ### Where a step stops -/

/-- Settles O41, by the command: the four operations of the block complete under the invariants, and the reserved ones are
refused. -/
theorem stepsStopOnlyOnReservedOperations : Obligations.StepsStopOnlyOnReservedOperations := by
  intro s hi
  match hops : s.hostOps with
  | [] => exact .inl ⟨s, stepWithoutAnOperationChangesNothing s hops⟩
  | .rstInput :: rest => exact .inl ⟨_, step_of_isReset hops rfl⟩
  | .command w :: rest =>
    have hbegin : (beginOp s rest).Inv := hi.setPort none rest s.draws
    rw [step_of_hostOps hops, HostOp.instr]
    obtain ⟨d, h | h | ⟨-, h⟩ | h | h | ⟨hw, h⟩⟩ := decodeCommand_cases w
    · obtain ⟨t, e, -⟩ := execNyb_next_of_inv hbegin d
      exact .inl ⟨t, by rw [h]; exact e⟩
    · obtain ⟨-, t, -, -, e⟩ := byteIsLowThenHighNybble _ d hbegin
      exact .inl ⟨t, by rw [h]; exact e⟩
    · exact .inl ⟨_, by rw [h]; rfl⟩
    · obtain ⟨_, _, e⟩ := execRdpix_next d (beginOp s rest)
      exact .inl ⟨_, by rw [h]; exact e⟩
    · obtain ⟨_, _, e⟩ := execRdlin_next d (beginOp s rest)
      exact .inl ⟨_, by rw [h]; exact e⟩
    · refine .inr ⟨w, rest, rfl, hw, ?_⟩
      obtain h | h | h := h <;> rw [h] <;> rfl

/-! ### The grid image between resets -/

/-- The image is completed here: the last cell is written and the image built from the linear buffer. -/
structure CompletesImage (s t : State) : Prop where
  /-- A nybble was admitted. -/
  decoding : s.Decoding
  /-- Before it some cell was left to write. -/
  cursor_le : s.cursor.toNat ≤ 180
  /-- After it none is. -/
  cursor : t.cursor.toNat = 181
  /-- The status says so. -/
  status : t.status = .complete
  /-- The image is that of the linear buffer. -/
  image : t.gridImage = assembleGrid t.linearBuffer

/-- The image is as before and COMPLETE is not newly entered. -/
def KeepsImage (s t : State) : Prop := t.gridImage = s.gridImage ∧ (t.status = .complete → s.status = .complete)

theorem NybbleEffect.image {v : Byte} {s t : State} (hs : s.Decoding) (h : NybbleEffect v s t) :
    KeepsImage s t ∨ CompletesImage s t := by
  obtain rfl | ⟨-, -, rfl⟩ | ⟨n, b, hfits, hw⟩ := h
  · exact .inl ⟨rfl, fun h => by cases h⟩
  · exact .inl ⟨rfl, fun h => by cases h⟩
  · by_cases hc : t.status = .complete
    · have hcursor := hw.status_eq_complete.1 hc
      have hle : s.cursor.toNat ≤ 180 := by
        have := hw.cursor
        have := hfits.pos
        omega
      exact .inr ⟨hs, hle, hcursor, hc, hw.image_of_complete hc⟩
    · refine .inl ⟨?_, fun h => absurd h hc⟩
      rw [hw.image, if_neg (hw.cursor ▸ mt hw.status_eq_complete.2 hc)]

theorem execNyb_image {v : Byte} {s t : State} (e : execNyb v s = .next t) : KeepsImage s t ∨ CompletesImage s t := by
  obtain ⟨-, rfl⟩ | ⟨hs, h⟩ := execNyb_eq_next e
  · exact .inl ⟨rfl, id⟩
  · exact h.image hs

/-- What keeps progress into a status that decodes began in one. -/
theorem KeepsProgress.decoding {s t : State} (h : KeepsProgress s t) (ht : t.Decoding) : s.Decoding := by
  refine Status.terminal_eq_false.1 (Bool.eq_false_iff.2 fun hterminal => ?_)
  have hdecodes : t.status.terminal = false := Status.terminal_eq_false.2 ht
  rw [h.terminal (Status.terminal_eq_true.1 hterminal), hterminal] at hdecodes
  cases hdecodes

/-- BYTE completes the image in one of its halves or in none: after the low half completes it, the high half is
discarded. -/
theorem execByte_image {b : Byte} {s t : State} (e : execByte b s = .next t) : KeepsImage s t ∨ CompletesImage s t := by
  obtain ⟨m, hlow, hhigh⟩ := execByte_eq_next e
  obtain ⟨himage, hstatus⟩ | hm := execNyb_image hlow
  · obtain ⟨himage', hstatus'⟩ | ht := execNyb_image hhigh
    · exact .inl ⟨himage'.trans himage, fun h => hstatus (hstatus' h)⟩
    · have hprogress := execNyb_keepsProgress hlow
      exact .inr { ht with
        decoding := hprogress.decoding ht.decoding
        cursor_le := hprogress.cursor.trans ht.cursor_le }
  · rw [execNyb_terminal (Status.terminal_eq_true.2 (.inl hm.status))] at hhigh
    cases hhigh
    exact .inr hm

/-- Settles O43, by the operation: a nybble or a byte keeps or completes the image, a read changes neither image nor
status. -/
theorem gridChangesOnlyAtCompletion : Obligations.GridChangesOnlyAtCompletion := by
  intro s t op rest hops hop e
  have himage : KeepsImage (beginOp s rest) t ∨ CompletesImage (beginOp s rest) t := by
    obtain ⟨hnil, -⟩ | ⟨op', rest', hops', h⟩ := step_eq_next e
    · cases hops.symm.trans hnil
    · cases hops.symm.trans hops'
      obtain ⟨v, -, hn⟩ | ⟨b, -, hb⟩ | ⟨hreset, -⟩ | ⟨-, d, n, rfl⟩ := h
      · exact execNyb_image hn
      · exact execByte_image hb
      · exact absurd hreset (by simp [hop])
      · exact .inl ⟨rfl, id⟩
  obtain hkeeps | ⟨hs, hle, hcursor, hstatus, hgrid⟩ := himage
  · exact .inl hkeeps
  · exact .inr ⟨hs, hle, hcursor, hstatus, hgrid⟩

end Sys2Proof.Machine
end

section
/-! SUPPORT. Proofs about the image assembly (41_image_assembly.md): the printed tables, the grid ASSEMBLE builds and
the loop that builds it. -/

namespace Sys2Proof.Machine

open Sys2Proof

/-! ### The printed tables -/

/-- Settles O35, by the fifteen codes the bound leaves. -/
theorem grayscaleClosedForm : Obligations.GrayscaleClosedForm := by
  intro c hc
  rw [grayscale]
  interval_cases c.toNat <;> rfl

theorem activeCell_eq_true {row col : Nat} : activeCell row col = true ↔ rowLo row ≤ col ∧ col ≤ rowHi row := by
  rw [activeCell, Bool.and_eq_true, decide_eq_true_iff, decide_eq_true_iff]

/-- The grid index of an active cell leads back to its linear index. -/
theorem activeCell_and_linearIndex_of_gridIndex {row col g k : Nat} (hg : g = gridIndex row col) (hcol : col < nCols)
    (hactive : rowLo row ≤ col ∧ col ≤ rowHi row) (hk : linearIndex row col = k) :
    activeCell (g / 15) (g % 15) = true ∧ linearIndex (g / 15) (g % 15) = k := by
  have hdiv : g / 15 = row := by simp only [gridIndex, nCols] at hg hcol; omega
  have hmod : g % 15 = col := by simp only [gridIndex, nCols] at hg hcol; omega
  rw [hdiv, hmod]
  exact ⟨activeCell_eq_true.2 hactive, hk⟩

/-- From row 4 on every row is full. -/
theorem rowBase_add_four (r : Nat) : rowBase (r + 4) = 46 + 15 * r := by
  induction r with
  | zero => rfl
  | succ r ih =>
    rw [Nat.add_right_comm, rowBase, ih]
    show 46 + 15 * r + 15 = 46 + 15 * (r + 1)
    omega

/-- The five closed forms are the four narrowed rows and the full rows below them. -/
theorem printedGridIndex_active {k : Nat} (hk : k ≤ 180) :
    activeCell (printedGridIndex k / 15) (printedGridIndex k % 15) = true ∧
      linearIndex (printedGridIndex k / 15) (printedGridIndex k % 15) = k := by
  unfold printedGridIndex
  split_ifs with h8 h19 h32 h45
  · apply activeCell_and_linearIndex_of_gridIndex (row := 0) (col := k + 3) <;>
      simp only [gridIndex, linearIndex, rowBase, rowLo, rowHi, nCols] <;> omega
  · apply activeCell_and_linearIndex_of_gridIndex (row := 1) (col := k - 7) <;>
      simp only [gridIndex, linearIndex, rowBase, rowLo, rowHi, nCols] <;> omega
  · apply activeCell_and_linearIndex_of_gridIndex (row := 2) (col := k - 19) <;>
      simp only [gridIndex, linearIndex, rowBase, rowLo, rowHi, nCols] <;> omega
  · apply activeCell_and_linearIndex_of_gridIndex (row := 3) (col := k - 32) <;>
      simp only [gridIndex, linearIndex, rowBase, rowLo, rowHi, nCols] <;> omega
  · apply activeCell_and_linearIndex_of_gridIndex (row := (k - 46) / 15 + 4) (col := (k - 46) % 15) <;>
      simp only [gridIndex, linearIndex, rowBase_add_four, rowLo, rowHi, nCols] <;> omega

theorem printedGridIndex_lt_succ (k : Nat) : printedGridIndex k < printedGridIndex (k + 1) := by
  unfold printedGridIndex
  split_ifs <;> omega

theorem gridIndex_mem_printedInactive : ∀ row < nRows, ∀ col < nCols,
    activeCell row col = false ↔ gridIndex row col ∈ printedInactive := by decide

/-- Settles O36: the closed forms row by row, and the inactive cells by row and column. -/
theorem gridMapIsThePrintedOne : Obligations.GridMapIsThePrintedOne := by
  refine ⟨fun k hk => printedGridIndex_active hk, fun k _ => printedGridIndex_lt_succ k, fun g hg => ?_⟩
  have hrow : g / 15 < nRows := by simp only [nRows]; omega
  rw [gridIndex_mem_printedInactive _ hrow _ (Nat.mod_lt g (by decide)), gridIndex, Nat.div_add_mod]

theorem printedGridIndex_lt {k : Nat} (hk : k ≤ 180) : printedGridIndex k < nGrid := by
  unfold printedGridIndex nGrid
  split_ifs <;> omega

theorem printedInactive_lt : ∀ g ∈ printedInactive, g < nGrid := by decide

/-- The printed row table is the model's. -/
theorem printedRows_eq : ∀ row < nRows, printedRows[row]? = some (rowLo row, rowHi row, rowBase row) := by decide

theorem zero_mem_printedLut : (0 : Byte) ∈ printedLut := by decide

/-! ### The grid ASSEMBLE builds -/

theorem pixelAt_active {linear : List Host.Cell} {row col : Nat} (h : activeCell row col = true) :
    pixelAt linear row col = grayscale (readLinear linear (linearIndex row col)) := if_pos h

theorem pixelAt_inactive {linear : List Host.Cell} {row col : Nat} (h : activeCell row col = false) :
    pixelAt linear row col = 0 := by
  rw [pixelAt, h]
  exact if_neg Bool.false_ne_true

/-- Where the linear cells hold codes, the cell of the image is the printed one. -/
theorem printedPixel_eq_pixelAt {linear : List Host.Cell} (hcodes : ∀ i ≤ 180, (readLinear linear i).toNat ≤ 14)
    {row col : Nat} (hrow : row < nRows) (hindex : activeCell row col = true → linearIndex row col < nLin) :
    printedPixel linear row col = some (pixelAt linear row col) := by
  rw [printedPixel, printedRows_eq row hrow]
  by_cases h : activeCell row col = true
  · rw [pixelAt_active h]
    exact (if_pos (activeCell_eq_true.1 h)).trans
      (grayscaleTableIsThePrintedOne _ (hcodes _ (Nat.le_of_lt_succ (hindex h))))
  · rw [pixelAt_inactive (Bool.eq_false_iff.2 h)]
    exact if_neg (mt activeCell_eq_true.2 h)

/-- Settles O32: every grid index is listed, and it stands for its row and column. -/
theorem assembleBuildsTheGrid : Obligations.AssembleBuildsTheGrid := by
  intro s
  refine ⟨assembleGrid s.linearBuffer, rfl, fun g hg => ?_, fun hcodes row col hrow hcol => ?_⟩
  · rw [readGrid_assembleGrid _ (Nat.lt_succ_of_le hg)]
    exact Option.some_ne_none _
  · have hlt : 15 * row + col < nGrid := by simp only [nGrid]; omega
    have hdiv : (15 * row + col) / nCols = row := by simp only [nCols]; omega
    have hmod : (15 * row + col) % nCols = col := by simp only [nCols]; omega
    have hindex := linearIndex_lt _ hlt
    rw [hdiv, hmod] at hindex
    rw [readGrid_assembleGrid _ hlt, hdiv, hmod, printedPixel_eq_pixelAt hcodes (Nat.lt_succ_of_le hrow) hindex]

theorem grayscale_mem_printedLut {c : Byte} (hc : c.toNat ≤ 14) : grayscale c ∈ printedLut :=
  List.mem_of_getElem? (grayscaleTableIsThePrintedOne c hc)

/-- Settles O37: the image is the one built from codes 0 to 14, and an inactive cell is 0, a value of the table. -/
theorem completedPixelsAreTableValues : Obligations.CompletedPixelsAreTableValues := by
  intro s hi hs g hg
  rw [hi.complete_image hs, readGrid_assembleGrid _ hg]
  refine ⟨_, ?_, rfl⟩
  by_cases h : activeCell (g / nCols) (g % nCols) = true
  · rw [pixelAt_active h]
    exact grayscale_mem_printedLut (hi.codes_le _)
  · rw [pixelAt_inactive (Bool.eq_false_iff.2 h)]
    exact zero_mem_printedLut

/-! ### The loop that builds it -/

/-- The cells of one row from a column on, in the order the loop writes them. -/
def rowCells (linear : List Host.Cell) (row first n : Nat) : List Host.Cell :=
  (List.range' first n).map fun col => (nCols * row + col, pixelAt linear row col)

/-- The running index before a column of a row: the active cells in all earlier rows and in the earlier columns. -/
def runningIndex (row col : Nat) : Nat := rowBase row + (min col (rowHi row + 1) - rowLo row)

theorem runningIndex_active {row col : Nat} (h : rowLo row ≤ col ∧ col ≤ rowHi row) :
    runningIndex row col = linearIndex row col ∧ runningIndex row (col + 1) = runningIndex row col + 1 := by
  unfold runningIndex linearIndex
  omega

theorem runningIndex_inactive {row col : Nat} (h : ¬ (rowLo row ≤ col ∧ col ≤ rowHi row)) :
    runningIndex row (col + 1) = runningIndex row col := by
  unfold runningIndex
  omega

/-- The loop over the columns of a row writes that row's cells, and counts the active ones. -/
theorem assembleRowLoop_eq (linear : List Host.Cell) (row first n : Nat) :
    assembleRowLoop linear row (List.range' first n) (runningIndex row first) =
      (rowCells linear row first n, runningIndex row (first + n)) := by
  induction n generalizing first with
  | zero => rfl
  | succ n ih =>
    have hrest := ih (first + 1)
    rw [Nat.add_right_comm, Nat.add_assoc] at hrest
    rw [List.range'_succ, assembleRowLoop, rowCells, List.range'_succ, List.map_cons]
    split
    · next h =>
      obtain ⟨hindex, hnext⟩ := runningIndex_active h
      rw [← hnext, hrest, hindex, pixelAt_active (activeCell_eq_true.2 h)]
      rfl
    · next h =>
      rw [← runningIndex_inactive h, hrest,
        pixelAt_inactive (Bool.eq_false_iff.2 (mt activeCell_eq_true.1 h))]
      rfl

theorem runningIndex_first (row : Nat) : runningIndex row 0 = rowBase row := by simp [runningIndex]

theorem rowHi_lt (row : Nat) : rowHi row < nCols := by
  unfold rowHi nCols
  split <;> decide

theorem runningIndex_last (row : Nat) : runningIndex row nCols = rowBase (row + 1) := by
  rw [runningIndex, Nat.min_eq_right (rowHi_lt row), rowBase]

/-- The loop over the rows writes their cells row after row. -/
theorem assembleLoop_eq (linear : List Host.Cell) (first n : Nat) :
    assembleLoop linear (List.range' first n) (rowBase first) =
      ((List.range' first n).flatMap fun row => rowCells linear row 0 nCols, rowBase (first + n)) := by
  induction n generalizing first with
  | zero => rfl
  | succ n ih =>
    have hrow := assembleRowLoop_eq linear first 0 nCols
    rw [runningIndex_first, Nat.zero_add, runningIndex_last] at hrow
    rw [List.range'_succ, assembleLoop, List.range_eq_range', hrow, ih, List.flatMap_cons,
      Nat.add_right_comm, Nat.add_assoc]

/-- The cells of one row are a stretch of the cells by rising grid index. -/
theorem rowCells_eq (linear : List Host.Cell) (row : Nat) : rowCells linear row 0 nCols =
    (List.range' (nCols * row) nCols).map fun g => (g, pixelAt linear (g / nCols) (g % nCols)) := by
  rw [rowCells, List.range'_eq_map_range, List.map_map, List.range'_eq_map_range, List.map_map]
  refine List.map_congr_left fun col hcol => ?_
  have hlt : col < nCols := by simpa using hcol
  simp only [Function.comp, Nat.zero_add]
  rw [Nat.mul_add_div (by decide), Nat.div_eq_of_lt hlt, Nat.add_zero, Nat.mul_add_mod, Nat.mod_eq_of_lt hlt]

/-- All rows together are the cells by rising grid index. -/
theorem flatMap_rowCells (linear : List Host.Cell) (n : Nat) :
    (List.range' 0 n).flatMap (fun row => rowCells linear row 0 nCols) =
      (List.range (nCols * n)).map fun g => (g, pixelAt linear (g / nCols) (g % nCols)) := by
  induction n with
  | zero => rfl
  | succ n ih =>
    rw [List.range'_1_concat, List.flatMap_append, ih, List.flatMap_singleton, rowCells_eq, Nat.mul_succ,
      List.range_add, List.map_append, Nat.zero_add, List.range'_eq_map_range]

/-- Settles O33: the loop writes the thirteen rows, which are the 195 cells, and its index ends past the last active
cell. -/
theorem assembleLoopWritesTheSameCells : Obligations.AssembleLoopWritesTheSameCells := by
  intro linear
  have h := assembleLoop_eq linear 0 13
  rw [flatMap_rowCells] at h
  exact h

end Sys2Proof.Machine
end

section
/-! SUPPORT. Proofs about the host's operations (42_host_operations.md): reset, the reads and the reserved codes. -/

namespace Sys2Proof.Machine

open Sys2Proof

/-- Settles O26: RST is `resetBlock`, field by field. -/
theorem rstLeavesTheResetValues : Obligations.RstLeavesTheResetValues :=
  fun s _ => ⟨resetBlock s, rfl, rfl, rfl, rfl, readLinear_nil, fun _ => rfl,
    (rfl : State.reset.stat = 0), rfl, rfl, rfl, rfl, rfl⟩

/-! ### RDPIX -/

/-- In COMPLETE RDPIX of a cell with a value returns the value. -/
theorem execRdpix_of_readGrid {s : State} {g b : Byte} (hs : s.status = .complete) (hg : g.toNat < nGrid)
    (h : readGrid s.gridImage g.toNat = some b) : execRdpix g s = .next { s with dout := some b } := by
  rw [execRdpix, if_pos ⟨hs, hg⟩, h]
  rfl

/-- In COMPLETE RDPIX of any grid index returns the cell ASSEMBLE gave it. -/
theorem execRdpix_complete {s : State} (hi : s.Inv) (hs : s.status = .complete) {g : Nat} (hg : g < nGrid) :
    execRdpix (BitVec.ofNat 8 g) s =
      .next { s with dout := some (pixelAt s.linearBuffer (g / nCols) (g % nCols)) } := by
  have hto : (BitVec.ofNat 8 g).toNat = g := by
    simp only [nGrid] at hg
    simp only [BitVec.toNat_ofNat]
    omega
  refine execRdpix_of_readGrid hs (hto.symm ▸ hg) ?_
  rw [hto, hi.complete_image hs, readGrid_assembleGrid _ hg]

/-- Settles O27: the printed map lands on the active cell of each linear index, and the printed 14 are inactive. -/
theorem rdpixReturnsTheImage : Obligations.RdpixReturnsTheImage := by
  obtain ⟨hactive, -, hinactive⟩ := gridMapIsThePrintedOne
  intro s hi hs
  refine ⟨fun k hk => ?_, fun g hg => ?_⟩
  · obtain ⟨ha, hindex⟩ := hactive k hk
    refine ⟨_, grayscaleTableIsThePrintedOne _ (hi.codes_le k), ?_⟩
    rw [exec, execRdpix_complete hi hs (printedGridIndex_lt hk), pixelAt_active ha, hindex]
  · have hlt := printedInactive_lt g hg
    rw [exec, execRdpix_complete hi hs hlt, pixelAt_inactive ((hinactive g hlt).2 hg)]

/-- Settles O28: outside the window RDPIX draws. -/
theorem rdpixElsewhereReturnsAFreeByte : Obligations.RdpixElsewhereReturnsAFreeByte := by
  intro s g h
  have hwindow : ¬ (s.status = .complete ∧ g.toNat < nGrid) := fun ⟨hs, hg⟩ =>
    h.elim (absurd hs) (Nat.not_le.2 hg)
  exact ⟨_, if_neg hwindow⟩

/-! ### RDLIN and the reserved codes -/

theorem execRdlin_inside {s : State} {i : Byte} (h : i.toNat < nLin) :
    execRdlin i s = .next { s with dout := some (readLinear s.linearBuffer i.toNat) } := if_pos h

theorem execRdlin_outside {s : State} {i : Byte} (h : nLin ≤ i.toNat) : execRdlin i s = .next (drawDout s) :=
  if_neg (Nat.not_lt.2 h)

/-- Settles O29, by the bound of the buffer. -/
theorem rdlinReturnsTheCell : Obligations.RdlinReturnsTheCell := by
  intro s i
  split
  · next h => exact execRdlin_inside (Nat.lt_succ_of_le h)
  · next h => exact ⟨_, execRdlin_outside (Nat.not_le.1 h)⟩

/-- Settles O30: the three meanings are the refusal itself. -/
theorem reservedOperationsAreRefused : Obligations.ReservedOperationsAreRefused := fun _ _ => ⟨rfl, rfl, rfl⟩

end Sys2Proof.Machine
end

section
/-! SUPPORT. Proofs about noninterference (10_state.md section 7 item 6): states that agree but for the linear cells at
or above the cursor step alike. -/

namespace Sys2Proof.Machine

open Sys2Proof

/-! ### Outcomes that agree -/

/-- Two operations in sequence agree if the first ones agree and the second ones do from related states. -/
theorem OutcomesAgree.andThen {rel : State → State → Prop} {o o' : Host.Outcome State Fault Refusal}
    {f f' : State → Host.Outcome State Fault Refusal} (ho : OutcomesAgree rel o o')
    (hf : ∀ s t, rel s t → OutcomesAgree rel (f s) (f' t)) : OutcomesAgree rel (andThen o f) (andThen o' f') := by
  match o, o', ho with
  | .next s, .next t, h => exact hf s t h
  | .fault _, .fault _, h => exact h
  | .refused _, .refused _, h => exact h

/-- A symbol admitted alike, whose bodies agree, agrees. -/
theorem AgreeBelowCursor.admitSymbol {s t : State} (h : AgreeBelowCursor s t) (read : Bool)
    {body : State → Host.Outcome State Fault Refusal} (hbody : OutcomesAgree AgreeBelowCursor (body s) (body t)) :
    OutcomesAgree AgreeBelowCursor (admitSymbol read s body) (admitSymbol read t body) := by
  unfold Machine.admitSymbol
  rw [h.status]
  split
  · exact h
  · split
    · exact hbody
    · rfl

/-! ### Operations that touch no cell at or above the cursor -/

theorem AgreeBelowCursor.setStatus {s t : State} (h : AgreeBelowCursor s t) (st : Status) :
    AgreeBelowCursor (s.setStatus st) (t.setStatus st) := { h with status := rfl }

theorem AgreeBelowCursor.setRunPending {s t : State} (h : AgreeBelowCursor s t) (p : Bool) :
    AgreeBelowCursor (s.setRunPending p) (t.setRunPending p) := { h with runPending := rfl }

theorem AgreeBelowCursor.setDout {s t : State} (h : AgreeBelowCursor s t) (d : Option Byte) :
    AgreeBelowCursor (s.setDout d) (t.setDout d) := { h with dout := rfl }

theorem AgreeBelowCursor.drawDout {s t : State} (h : AgreeBelowCursor s t) :
    AgreeBelowCursor (drawDout s) (drawDout t) := by
  rw [drawDout_eq, drawDout_eq, h.draws]
  exact { h with dout := rfl, draws := rfl }

theorem AgreeBelowCursor.beginOp {s t : State} (h : AgreeBelowCursor s t) (rest : List HostOp) :
    AgreeBelowCursor (beginOp s rest) (beginOp t rest) := { h with dout := rfl, hostOps := rfl }

theorem AgreeBelowCursor.resetBlock {s t : State} (h : AgreeBelowCursor s t) :
    AgreeBelowCursor (resetBlock s) (resetBlock t) :=
  ⟨rfl, rfl, rfl, fun _ _ => rfl, rfl, h.dout, h.hostOps, h.draws⟩

/-! ### Writes -/

/-- The same write makes the cells it passes over agree; a write that completes leaves none that may differ, so the
images it builds agree. -/
theorem AgreeBelowCursor.cellsWritten {n : Nat} {v : Byte} {s t s' t' : State} (h : AgreeBelowCursor s t)
    (hs : CellsWritten n v s s') (ht : CellsWritten n v t t') : AgreeBelowCursor s' t' := by
  have hcursor : s'.cursor = t'.cursor := BitVec.eq_of_toNat_eq (by rw [hs.cursor, ht.cursor, h.cursor])
  have hbelow : ∀ i, i < s'.cursor.toNat → readLinear s'.linearBuffer i = readLinear t'.linearBuffer i := by
    intro i hi
    rw [hs.cursor] at hi
    rw [hs.cells, ht.cells, ← h.cursor]
    split
    · rfl
    · exact h.below i (by omega)
  refine ⟨hcursor, hs.runPending.trans ht.runPending.symm, ?_, hbelow, ?_, ?_, ?_, ?_⟩
  · rw [hs.status, ht.status, h.cursor]
  · rw [hs.image, ht.image, ← h.cursor]
    split
    · next hlast => exact assembleGrid_congr fun k hk => hbelow k (by rwa [hs.cursor, hlast])
    · exact h.image
  · rw [hs.dout, ht.dout, h.dout]
  · rw [hs.hostOps, ht.hostOps, h.hostOps]
  · rw [hs.draws, ht.draws, h.draws]

theorem AgreeBelowCursor.runOutcome {n : Nat} {s t s' t' : State} (h : AgreeBelowCursor s t)
    (hs : RunOutcome n s s') (ht : RunOutcome n t t') : AgreeBelowCursor s' t' := by
  by_cases hover : 181 < s.cursor.toNat + n
  · rw [RunOutcome, if_pos hover] at hs
    rw [RunOutcome, if_pos (h.cursor ▸ hover)] at ht
    rw [hs, ht]
    exact h.setStatus .error
  · rw [RunOutcome, if_neg hover] at hs
    rw [RunOutcome, if_neg (h.cursor ▸ hover)] at ht
    exact h.cellsWritten hs ht

theorem AgreeBelowCursor.runOfZeros {s t : State} (h : AgreeBelowCursor s t) (n : Nat) :
    AgreeBelowCursor (runOfZeros n s) (runOfZeros n t) :=
  h.runOutcome (runOfZeros_outcome n s) (runOfZeros_outcome n t)

theorem AgreeBelowCursor.escapeInRun {s t : State} (h : AgreeBelowCursor s t) (p : EscInRun) :
    AgreeBelowCursor (escapeInRun p s) (escapeInRun p t) := by
  cases p with
  | run18 => exact h.runOfZeros _
  | error => exact h.setStatus .error

/-! ### Nybbles -/

theorem AgreeBelowCursor.execLit {s t : State} (h : AgreeBelowCursor s t) (hp : s.runPending = false) (v : Nybble) :
    OutcomesAgree AgreeBelowCursor (execLit v s) (execLit v t) := by
  unfold Machine.execLit
  rw [← h.runPending]
  refine h.admitSymbol _ ?_
  rw [← h.cursor]
  split
  · next hc =>
    have ht := literalWrite_outcome (h.cursor ▸ hc) (h.runPending ▸ hp) (zext8 v)
    rw [← h.cursor] at ht
    exact h.cellsWritten (literalWrite_outcome hc hp (zext8 v)) ht
  · rfl

/-- The decoder step chooses the same symbol in both states, and the symbol does the same. -/
theorem AgreeBelowCursor.decodeNybble {s t : State} (h : AgreeBelowCursor s t) (v : Byte) :
    OutcomesAgree AgreeBelowCursor (decodeNybble v s) (decodeNybble v t) := by
  obtain hv | ⟨hp, hv⟩ | ⟨hp, hv⟩ | ⟨hp, hv⟩ | ⟨hp, hv⟩ := operand_cases s.runPending v
  · rw [decodeNybble_invalid hv, decodeNybble_invalid hv]
    exact h.admitSymbol _ (h.setStatus .error)
  · rw [decodeNybble_run15 hp hv, decodeNybble_run15 (h.runPending ▸ hp) hv, execRun15, execRun15, h.runPending]
    exact h.admitSymbol _ (h.escapeInRun _)
  · rw [decodeNybble_run hp hv, decodeNybble_run (h.runPending ▸ hp) hv, execRun, execRun, h.runPending]
    exact h.admitSymbol _ (h.runOfZeros _)
  · rw [decodeNybble_esc hp hv, decodeNybble_esc (h.runPending ▸ hp) hv, execEsc, execEsc, h.runPending]
    exact h.admitSymbol _ ((h.setRunPending true).setStatus .inProgress)
  · rw [decodeNybble_lit hp hv, decodeNybble_lit (h.runPending ▸ hp) hv]
    exact h.execLit hp _

theorem AgreeBelowCursor.execNyb {s t : State} (h : AgreeBelowCursor s t) (v : Byte) :
    OutcomesAgree AgreeBelowCursor (execNyb v s) (execNyb v t) := by
  unfold Machine.execNyb
  rw [h.status]
  split
  · exact h
  · exact h.decodeNybble v

theorem AgreeBelowCursor.execByte {s t : State} (h : AgreeBelowCursor s t) (b : Byte) :
    OutcomesAgree AgreeBelowCursor (execByte b s) (execByte b t) :=
  (h.execNyb _).andThen fun _ _ hm => hm.execNyb _

/-! ### Reads -/

theorem AgreeBelowCursor.execRdpix {s t : State} (h : AgreeBelowCursor s t) (g : Byte) :
    OutcomesAgree AgreeBelowCursor (execRdpix g s) (execRdpix g t) := by
  unfold Machine.execRdpix
  rw [h.status, h.image]
  split
  · split
    · exact h.setDout _
    · exact h.drawDout
  · exact h.drawDout

/-- RDLIN agrees but for the cells at or above the cursor. -/
theorem AgreeBelowCursor.execRdlin {s t : State} (h : AgreeBelowCursor s t) {i : Byte}
    (hi : i.toNat < s.cursor.toNat ∨ 181 ≤ i.toNat) :
    OutcomesAgree AgreeBelowCursor (execRdlin i s) (execRdlin i t) := by
  by_cases hin : i.toNat < nLin
  · rw [execRdlin_inside hin, execRdlin_inside hin, h.below _ (hi.resolve_right (Nat.not_le.2 hin))]
    exact h.setDout _
  · rw [execRdlin_outside (Nat.not_lt.1 hin), execRdlin_outside (Nat.not_lt.1 hin)]
    exact h.drawDout

/-! ### Steps -/

theorem AgreeBelowCursor.exec_commandOf {s t : State} (h : AgreeBelowCursor s t) (op : BitVec 3) (din : Byte)
    (hrdlin : op = 4 → din.toNat < s.cursor.toNat ∨ 181 ≤ din.toNat) :
    OutcomesAgree AgreeBelowCursor (exec (commandOf op din) s) (exec (commandOf op din) t) := by
  unfold commandOf
  split
  · exact h.execNyb din
  · exact h.execByte din
  · exact h.resetBlock
  · exact h.execRdpix din
  · next hop => exact h.execRdlin (hrdlin (BitVec.eq_of_toNat_eq hop))
  all_goals rfl

/-- Settles O44, by the operation both states have next. -/
theorem imageIndependentOfUndecodedCells : Obligations.ImageIndependentOfUndecodedCells := by
  intro s t h hrdlin
  match hops : s.hostOps with
  | [] =>
    rw [stepWithoutAnOperationChangesNothing s hops, stepWithoutAnOperationChangesNothing t (h.hostOps ▸ hops)]
    exact h
  | .rstInput :: rest =>
    rw [step_of_isReset hops rfl, step_of_isReset (h.hostOps ▸ hops) rfl]
    exact (h.beginOp rest).resetBlock
  | .command w :: rest =>
    obtain ⟨op, din, rfl⟩ : ∃ op din, commandWord op din = w := ⟨_, _, commandWord_eta w⟩
    rw [step_of_hostOps hops, step_of_hostOps (h.hostOps ▸ hops), HostOp.instr, decodeCommand_commandWord]
    exact (h.beginOp rest).exec_commandOf op din fun hop => hrdlin din rest (hop ▸ hops)

end Sys2Proof.Machine
end

section
/-! SUPPORT. Proofs about streams (40_decoder_symbols.md section 10; 30_encoding.md section 8): a legal spelling decodes
to its codes, and the reference encoder writes a legal spelling. -/

namespace Sys2Proof.Machine

open Sys2Proof

/-! ### What decoded codes leave -/

/-- The codes stand in the cells from the old cursor on, and the cursor, the status and the image are as after a write
that ends there. -/
structure CodesDecoded (codes : List Nybble) (s t : State) : Prop where
  /-- The cursor has moved past them. -/
  cursor : t.cursor.toNat = s.cursor.toNat + codes.length
  /-- No run length is awaited. -/
  runPending : t.runPending = false
  /-- COMPLETE exactly at the end of the buffer. -/
  status : t.status = if t.cursor.toNat = 181 then .complete else .inProgress
  /-- The image is built there only. -/
  image : t.gridImage = if t.cursor.toNat = 181 then assembleGrid t.linearBuffer else s.gridImage
  /-- The cells below the old cursor are as they were. -/
  below : ∀ i, i < s.cursor.toNat → readLinear t.linearBuffer i = readLinear s.linearBuffer i
  /-- Each code stands in its cell. -/
  cells : ∀ (k : Nat) (c : Nybble), codes[k]? = some c → readLinear t.linearBuffer (s.cursor.toNat + k) = zext8 c

/-- One write of equal cells decodes that many equal codes. -/
theorem CellsWritten.codesDecoded {n : Nat} {c : Nybble} {s t : State} (h : CellsWritten n (zext8 c) s t) :
    CodesDecoded (List.replicate n c) s t where
  cursor := by rw [h.cursor, List.length_replicate]
  runPending := h.runPending
  status := by rw [h.status, h.cursor]
  image := by rw [h.image, h.cursor]
  below i hi := by rw [h.cells, if_neg (by omega)]
  cells k d hk := by
    obtain ⟨hlt, rfl⟩ : k < n ∧ c = d := by simpa [List.getElem?_replicate] using hk
    rw [h.cells, if_pos (by omega)]

/-- Codes decoded one after the other, the first not up to the end of the buffer. -/
theorem CodesDecoded.append {a b : List Nybble} {s m t : State} (hm : CodesDecoded a s m) (ht : CodesDecoded b m t)
    (hlast : m.cursor.toNat ≠ 181) : CodesDecoded (a ++ b) s t where
  cursor := by rw [ht.cursor, hm.cursor, List.length_append, Nat.add_assoc]
  runPending := ht.runPending
  status := ht.status
  image := by rw [ht.image, hm.image, if_neg hlast]
  below i hi := by rw [ht.below i (by rw [hm.cursor]; omega), hm.below i hi]
  cells k c hk := by
    by_cases ha : k < a.length
    · rw [List.getElem?_append_left ha] at hk
      rw [ht.below _ (by rw [hm.cursor]; omega), hm.cells k c hk]
    · rw [List.getElem?_append_right (Nat.not_lt.1 ha)] at hk
      rw [← ht.cells _ c hk, hm.cursor, Nat.add_assoc, Nat.add_sub_cancel' (Nat.not_lt.1 ha)]

/-! ### Feeding one symbol -/

theorem feedNybbles_append (xs ys : List Nybble) (s : State) :
    feedNybbles (xs ++ ys) s = andThen (feedNybbles xs s) (feedNybbles ys) := by
  induction xs generalizing s with
  | nil => rfl
  | cons x xs ih =>
    calc feedNybbles (x :: xs ++ ys) s
        = andThen (exec (.nyb (zext8 x)) s) (feedNybbles (xs ++ ys)) := rfl
      _ = andThen (exec (.nyb (zext8 x)) s) fun m => andThen (feedNybbles xs m) (feedNybbles ys) := by
          rw [funext ih]
      _ = andThen (feedNybbles (x :: xs) s) (feedNybbles ys) := (andThen_assoc _ _ _).symm

theorem exec_nyb_lit {s : State} (hs : s.Decoding) (hp : s.runPending = false) {v : Nybble} (hv : v.toNat ≤ 14) :
    exec (.nyb (zext8 v)) s = execLit v s := by
  rw [exec, execNyb_decoding hs, decodeNybble_lit hp (by rwa [zext8_toNat]), lowHalf_zext8]

theorem exec_nyb_run {s : State} (hs : s.Decoding) (hp : s.runPending = true) {x : Nybble} (hx : x.toNat ≤ 14) :
    exec (.nyb (zext8 x)) s = execRun x s := by
  rw [exec, execNyb_decoding hs, decodeNybble_run hp (by rwa [zext8_toNat]), lowHalf_zext8]

theorem exec_nyb_esc {s : State} (hs : s.Decoding) (hp : s.runPending = false) :
    exec (.nyb (zext8 15)) s = .next { s with runPending := true, status := .inProgress } := by
  rw [exec, execNyb_decoding hs, decodeNybble_esc hp rfl, execEsc_decoding hs hp]

/-- A run of a legal length that fits, spelled as an escape and its run length. -/
theorem feedNybbles_zeros {s : State} {n : Nat} (hs : s.Decoding) (hp : s.runPending = false) (hn : 3 ≤ n ∧ n ≤ 17)
    (hfits : s.cursor.toNat + n ≤ 181) :
    ∃ t, feedNybbles [15, BitVec.ofNat 4 (n - 3)] s = .next t ∧ CellsWritten n 0 s t := by
  have hx : (BitVec.ofNat 4 (n - 3)).toNat = n - 3 := by
    simp only [BitVec.toNat_ofNat]
    omega
  have hlength : runLength (BitVec.ofNat 4 (n - 3)) = n := by
    simp only [runLength, hx, runBias]
    omega
  have hrun := runOfZeros_outcome n { s with runPending := true, status := .inProgress }
  rw [RunOutcome, if_neg (Nat.not_lt.2 hfits)] at hrun
  refine ⟨_, ?_, { hrun with }⟩
  rw [feedNybbles, exec_nyb_esc hs hp, andThen_next, feedNybbles, exec_nyb_run (.inr rfl) rfl (by omega),
    execRun_decoding (.inr rfl) rfl (by simp only [codeMax]; omega), hlength]
  rfl

/-- One legal symbol that fits decodes to its codes. -/
theorem feedNybbles_spelling {s : State} {w : Spelling} (hw : w.legal = true) (hs : s.Decoding)
    (hp : s.runPending = false) (hfits : s.cursor.toNat + w.codes.length ≤ 181) :
    ∃ t, feedNybbles w.nybbles s = .next t ∧ CodesDecoded w.codes s t := by
  cases w with
  | literal v =>
    have hv : v.toNat ≤ 14 := of_decide_eq_true hw
    obtain ⟨t, e, h⟩ := execLit_decoding hs hp (Nat.lt_of_succ_le hfits) hv
    refine ⟨t, ?_, h.codesDecoded⟩
    rw [Spelling.nybbles, feedNybbles, exec_nyb_lit hs hp hv, e]
    rfl
  | zeros n =>
    rw [Spelling.codes, List.length_replicate] at hfits
    obtain ⟨t, e, h⟩ := feedNybbles_zeros hs hp (by simpa [Spelling.legal] using hw) hfits
    exact ⟨t, e, CellsWritten.codesDecoded (c := 0) h⟩

theorem Spelling.codes_length_pos {w : Spelling} (hw : w.legal = true) : 0 < w.codes.length := by
  cases w with
  | literal v => exact Nat.one_pos
  | zeros n =>
    obtain ⟨hn, -⟩ : 3 ≤ n ∧ n ≤ 17 := by simpa [Spelling.legal] using hw
    rw [Spelling.codes, List.length_replicate]
    omega

/-! ### Feeding a whole spelling -/

/-- A legal spelling that fits decodes to its codes, by induction on its symbols: a symbol with others after it does not
reach the end of the buffer, so it leaves a status that decodes. -/
theorem feedNybbles_spellings {w : Spelling} {ws : List Spelling} (hlegal : ∀ u ∈ w :: ws, u.legal = true)
    {s : State} (hs : s.Decoding) (hp : s.runPending = false)
    (hfits : s.cursor.toNat + ((w :: ws).flatMap Spelling.codes).length ≤ 181) :
    ∃ t, feedNybbles ((w :: ws).flatMap Spelling.nybbles) s = .next t ∧
      CodesDecoded ((w :: ws).flatMap Spelling.codes) s t := by
  induction ws generalizing w s with
  | nil =>
    rw [List.flatMap_singleton] at hfits ⊢
    rw [List.flatMap_singleton]
    exact feedNybbles_spelling (hlegal w List.mem_cons_self) hs hp hfits
  | cons u us ih =>
    rw [List.flatMap_cons, List.length_append] at hfits
    obtain ⟨m, em, hm⟩ := feedNybbles_spelling (hlegal w List.mem_cons_self) hs hp (by omega)
    have hpos : 0 < ((u :: us).flatMap Spelling.codes).length := by
      rw [List.flatMap_cons, List.length_append]
      exact Nat.add_pos_left (Spelling.codes_length_pos (hlegal u (by simp))) _
    have hcursor := hm.cursor
    have hlast : m.cursor.toNat ≠ 181 := by omega
    have hdecoding : m.Decoding := .inr (hm.status.trans (if_neg hlast))
    obtain ⟨t, et, ht⟩ := ih (fun x hx => hlegal x (List.mem_cons_of_mem w hx)) hdecoding hm.runPending (by omega)
    refine ⟨t, ?_, ?_⟩
    · rw [List.flatMap_cons, feedNybbles_append, em, andThen_next, et]
    · rw [List.flatMap_cons]
      exact hm.append ht hlast

/-- Settles O45, by the induction of `feedNybbles_spellings`. -/
theorem legalSpellingDecodesToItsCodes : Obligations.LegalSpellingDecodesToItsCodes := by
  intro ws s hne hlegal hs hp hfits
  obtain ⟨w, us, rfl⟩ := List.exists_cons_of_ne_nil hne
  obtain ⟨t, e, h⟩ := feedNybbles_spellings hlegal hs hp hfits
  exact ⟨t, e, h.cursor, h.runPending, h.status, h.image, h.below, h.cells⟩

/-! ### The reference encoder -/

/-- The symbols the reference encoder writes for a list of codes: literals of codes in the list, and runs of 3 to 17
(30_encoding.md R61). -/
def Spelling.Spells (codes : List Nybble) : Spelling → Prop
  | .literal v => v ∈ codes
  | .zeros n => 3 ≤ n ∧ n ≤ 17

theorem Spelling.Spells.mono {a b : List Nybble} {w : Spelling} (h : w.Spells a) (hsub : a ⊆ b) : w.Spells b := by
  cases w with
  | literal v => exact hsub h
  | zeros n => exact h

theorem Spelling.Spells.legal {codes : List Nybble} {w : Spelling} (h : w.Spells codes)
    (hcodes : ∀ c ∈ codes, c.toNat ≤ 14) : w.legal = true := by
  cases w with
  | literal v => exact decide_eq_true (hcodes v h)
  | zeros n => simpa [Spelling.legal, Spelling.Spells] using h

/-- The leading zeros of a list, up to any bound, are zeros. -/
theorem take_eq_replicate_of_le_leadingZeros {codes : List Nybble} {n : Nat} (h : n ≤ leadingZeros codes) :
    codes.take n = List.replicate n 0 := by
  induction codes generalizing n with
  | nil =>
    obtain rfl : n = 0 := Nat.le_zero.1 h
    rfl
  | cons a rest ih =>
    cases n with
    | zero => rfl
    | succ n =>
      rw [leadingZeros] at h
      split at h
      · next ha => rw [List.take_succ_cons, ha, ih (Nat.le_of_succ_le_succ h), List.replicate_succ]
      · cases h

/-- The reference encoder writes a spelling of the codes, by induction on its rounds. -/
theorem exists_spelling_encodeStreamUpTo {rounds : Nat} {codes : List Nybble} (h : codes.length ≤ rounds) :
    ∃ ws : List Spelling, ws.flatMap Spelling.codes = codes ∧
      ws.flatMap Spelling.nybbles = encodeStreamUpTo rounds codes ∧ ∀ w ∈ ws, w.Spells codes := by
  induction rounds generalizing codes with
  | zero =>
    obtain rfl : codes = [] := List.eq_nil_of_length_eq_zero (Nat.le_zero.1 h)
    exact ⟨[], rfl, rfl, by simp⟩
  | succ rounds ih =>
    match codes with
    | [] => exact ⟨[], rfl, rfl, by simp⟩
    | a :: rest =>
      rw [List.length_cons] at h
      by_cases hr : 3 ≤ leadingZeros (a :: rest)
      · obtain ⟨c, hc⟩ : ∃ c, c = min (leadingZeros (a :: rest)) 17 := ⟨_, rfl⟩
        obtain ⟨ws, hcodes, hnybbles, hspells⟩ := ih (codes := (a :: rest).drop c) (by simp; omega)
        refine ⟨.zeros c :: ws, ?_, ?_, ?_⟩
        · have hzeros : (a :: rest).take c = List.replicate c 0 := take_eq_replicate_of_le_leadingZeros (by omega)
          rw [List.flatMap_cons, hcodes, Spelling.codes, ← hzeros, List.take_append_drop]
        · rw [List.flatMap_cons, hnybbles, encodeStreamUpTo]
          simp only [if_pos hr, ← hc]
          rfl
        · rw [List.forall_mem_cons]
          exact ⟨⟨by omega, by omega⟩, fun w hw => (hspells w hw).mono (List.drop_subset c _)⟩
      · obtain ⟨ws, hcodes, hnybbles, hspells⟩ := ih (codes := rest) (by omega)
        refine ⟨.literal a :: ws, ?_, ?_, ?_⟩
        · rw [List.flatMap_cons, hcodes]
          rfl
        · rw [List.flatMap_cons, hnybbles, encodeStreamUpTo]
          simp only [if_neg hr]
          rfl
        · rw [List.forall_mem_cons]
          exact ⟨List.mem_cons_self, fun w hw => (hspells w hw).mono (List.subset_cons_self a rest)⟩

/-- Settles O46: the encoder's stream is a legal spelling of the codes, which fill the buffer. -/
theorem referenceEncoderRoundTrip : Obligations.ReferenceEncoderRoundTrip := by
  intro codes s hlength hcodes hs hp hc
  obtain ⟨ws, hws, hnybbles, hspells⟩ := exists_spelling_encodeStreamUpTo (le_refl codes.length)
  have hne : ws ≠ [] := by
    rintro rfl
    simp [← hws] at hlength
  have hcursor : s.cursor.toNat = 0 := congrArg BitVec.toNat hc
  obtain ⟨t, e, htc, -, hstatus, himage, -, hcells⟩ := legalSpellingDecodesToItsCodes ws s hne
    (fun w hw => (hspells w hw).legal hcodes) hs hp (by rw [hws, hlength, hcursor])
  rw [hws] at htc hcells
  rw [hcursor, hlength] at htc
  rw [hnybbles] at e
  rw [if_pos htc] at hstatus himage
  refine ⟨t, e, hstatus, himage, fun k c hk => ?_⟩
  rw [← hcells k c hk, hcursor, Nat.zero_add]

/-! ### The length of the encoder's stream -/

/-- A symbol has at most as many nybbles as codes, and 17 codes at most for every two nybbles. -/
theorem Spelling.Spells.length_bounds {codes : List Nybble} {w : Spelling} (h : w.Spells codes) :
    w.nybbles.length ≤ w.codes.length ∧ 2 * w.codes.length ≤ 17 * w.nybbles.length := by
  cases w with
  | literal v => simp [Spelling.nybbles, Spelling.codes]
  | zeros n =>
    obtain ⟨hlow, hhigh⟩ := h
    simp only [Spelling.nybbles, Spelling.codes, List.length_cons, List.length_nil, List.length_replicate]
    omega

theorem flatMap_length_bounds {codes : List Nybble} {ws : List Spelling} (h : ∀ w ∈ ws, w.Spells codes) :
    (ws.flatMap Spelling.nybbles).length ≤ (ws.flatMap Spelling.codes).length ∧
      2 * (ws.flatMap Spelling.codes).length ≤ 17 * (ws.flatMap Spelling.nybbles).length := by
  induction ws with
  | nil => simp
  | cons w ws ih =>
    obtain ⟨hw, hws⟩ := List.forall_mem_cons.1 h
    have hhead := hw.length_bounds
    have htail := ih hws
    simp only [List.flatMap_cons, List.length_append]
    omega

/-- Settles O47: 181 codes are at most 17 for every two nybbles, and at least one for each. -/
theorem encodedStreamLengthBounds : Obligations.EncodedStreamLengthBounds := by
  intro codes hlength
  obtain ⟨ws, hws, hnybbles, hspells⟩ := exists_spelling_encodeStreamUpTo (le_refl codes.length)
  have hbounds := flatMap_length_bounds hspells
  rw [hws, hnybbles, hlength] at hbounds
  rw [encodeStream, hlength]
  omega

end Sys2Proof.Machine
end
